-- ==== Sys2Proof/Word.lean ====
section
/-! DEFINITION. The plain data types of the machine: bytes, pointers, socket numbers, host handles, network addresses, frames. -/

namespace Sys2Proof

/-- A byte, bit 0 the least significant (00 R9). -/
abbrev Byte := BitVec 8

/-- A 16-bit pointer or register value (10 R21, R53, R54, R56). -/
abbrev Word16 := BitVec 16

/-- A socket number, 0..3 (00 R7 `NSOCK`). -/
abbrev SockId := Fin 4

/-- A host handle: "host file descriptor or equivalent handle", opaque to the block (10 R60). -/
abbrev Handle := Nat

/-- An IPv4 address in transmission order, the first octet in the most significant byte (20 R91). -/
abbrev Ip := BitVec 32

/-- An Ethernet address in transmission order, the first octet in the most significant byte (20 R91). -/
abbrev Mac := BitVec 48

/-- A byte string: an Ethernet frame or a piece of one, first byte first (30 R144). -/
abbrev Frame := List Byte

end Sys2Proof
end

