-- ==== Sys2Proof/Config.lean ====
section
/-! DEFINITION. What an implementation fixes: the constants of the spec, its parameters, the types of the answers that the two oracles give, and the free values (opaque: no body, so no proof can see them). -/

namespace Sys2Proof

/-! ## Constants (00 R7) -/

/-- `MEM_SIZE`: the internal image holds 32 KiB. -/
abbrev Config.memSize : Nat := 0x8000

/-- `STAGING_CAP`: the per-socket staging buffer holds 4096 bytes. -/
abbrev Config.stagingCap : Nat := 4096

/-- `RING`: the ring window per socket, 2048 bytes. -/
abbrev Config.ring : Nat := 2048

/-- `MACRAW_MAX_FRAME`: the longest frame a MACRAW SEND accepts. -/
abbrev Config.macrawMaxFrame : Nat := 1600

/-- `MOUSE_ROM_SIZE`: eight pages of 256 bytes. -/
abbrev Config.mouseRomSize : Nat := 2048

/-! ## Parameters (00 R8) -/

/-- The registers of the 6821 that a soft switch of the mouse card can address (30 R150). -/
inductive PiaSel where
  /-- ORA or DDRA, chosen by CRA bit 2. -/
  | portA
  /-- CRA. -/
  | ctlA
  /-- ORB or DDRB, chosen by CRB bit 2. -/
  | portB
  /-- CRB. -/
  | ctlB
deriving DecidableEq, Repr

/-- `PIA_RS_MAP`: which register each of the soft-switch offsets 0..3 addresses (30 R150). -/
structure PiaMap where
  at0 : PiaSel
  at1 : PiaSel
  at2 : PiaSel
  at3 : PiaSel
deriving DecidableEq, Repr

/-- The parameters with a plain value (00 R8). The two slots have no default and are set by the emulator;
no rule of the block reads them (30 R121). -/
structure Params where
  /-- `MR_PROTO_UDP` (30 R141). -/
  mrUdp : Byte
  /-- `MR_PROTO_MACRAW` (30 R141). -/
  mrMacraw : Byte
  /-- `MR_PROTO_MASK` (30 R141). -/
  mrMask : Byte
  /-- `PIA_RS_MAP` (30 R150). -/
  rsMap : PiaMap
  /-- `U2_SLOT`, 1..7, `none` until it is set (00 R8, D38; log 22). -/
  u2Slot : Option Nat
  /-- `MOUSE_SLOT`, 1..7, `none` until it is set (00 R8, D38; log 22). -/
  mouseSlot : Option Nat
deriving DecidableEq, Repr

/-- The default register-select order of the 6821 (30 R150, D24). PRESUMED (log 18): unsafe. -/
def PiaMap.default : PiaMap := ⟨.portA, .ctlA, .portB, .ctlB⟩

/-- The defaults of 00 R8. PRESUMED (log 17, 18): unsafe; every statement about all states holds for
every value of the parameters. The slots have no default. -/
def Params.default : Params := ⟨0x02, 0x04, 0x0F, PiaMap.default, none, none⟩

/-! ## The environment state of the virtual network layer (10 R65 to R67) -/

/-- The values of `dhcp_state` (10 R65, 44 R320). -/
inductive DhcpState where
  | idle
  | discoverSeen
  | offerSent
  | requestSeen
  | complete
deriving DecidableEq, Repr, Inhabited

/-- `virtual_tcp`: the one active TCP termination (10 R67, 44 R331). `handle` is `none` once the host
handle has been closed. -/
structure VTcp where
  handle : Option Handle
  remoteMac : Mac
  remoteIp : Ip
  dialedIp : Ip
  remotePort : Word16
  localPort : Word16
  ourSeq : BitVec 32
  theirSeq : BitVec 32
  established : Bool
  finSent : Bool
  finReceived : Bool
deriving DecidableEq, Repr, Inhabited

/-- The environment state that 10 R20 lists inside the W5100 state. -/
structure VEnv where
  dhcpState : DhcpState
  dhcpXid : BitVec 32
  clientMac : Mac
  vtcp : Option VTcp
deriving DecidableEq, Repr, Inhabited

/-! ## Answers of the `Host` oracle (42 R260) -/

/-- One answer of the host's sockets. An operation reads from it the answer it can take (log 7); an
answer of another kind counts as the operation's failure. -/
inductive HostAnswer where
  /-- `fail` or `error`. -/
  | fail
  /-- `ok`. -/
  | ok
  /-- A handle, of open_stream, open_dgram, accept, or the virtual TCP connect. -/
  | handle (h : Handle)
  /-- connect: done at once. -/
  | immediate
  /-- connect: in progress. -/
  | inProgress
  /-- writable, readable. -/
  | flag (b : Bool)
  /-- recv: these bytes; the empty string says that the peer closed. -/
  | bytes (l : List Byte)
  /-- recv: nothing there. -/
  | wouldBlock
  /-- send: how many bytes were taken. -/
  | count (k : Nat)
  /-- A failed LISTEN leaves the socket as it was (41 R205, U2). -/
  | keep
  /-- A failed LISTEN closes the socket (41 R205, U2). -/
  | close
  /-- The virtual TCP response wait (44 R333): the reads that succeeded, and whether a zero-byte read
  ended them. -/
  | arrived (reads : List (List Byte)) (eof : Bool)
deriving DecidableEq, Repr, Inhabited

/-! ## Answers of the `VNet` oracle (42 R264, 44 R350) -/

/-- How the DHCP and TCP responders take an IP header longer than 20 bytes (44 R350). -/
inductive IpOptions where
  /-- The frame is dropped. -/
  | drop
  /-- The header length field is honoured. -/
  | honour
  /-- Fields are read where a 20-byte header would put them. -/
  | ignore
deriving DecidableEq, Repr, Inhabited

/-- The fields of one reply frame that the spec does not give (44 R314, R338, R350). -/
structure ReplyOpen where
  /-- IPv4 type of service. -/
  tos : Byte
  /-- IPv4 identification. -/
  ident : BitVec 16
  /-- The two flag bits above "more fragments" (no reply is fragmented, 44 R314). -/
  flags : BitVec 2
  /-- Ethernet source address of a TCP segment. -/
  ethSrc : Mac
deriving DecidableEq, Repr, Inhabited

/-- Everything that file 44 leaves to the oracle in one call of a responder (44 R350, U8). -/
structure VNetChoices where
  /-- The open fields of the first, second, … reply of the call. -/
  replies : List ReplyOpen
  /-- IPv4 source address of DHCP replies. -/
  dhcpSrcIp : Ip
  /-- The UDP checksum field of DHCP replies ("may be zero", 44 R313). -/
  udpChecksum : BitVec 16
  bootpSecs : BitVec 16
  bootpFlags : BitVec 16
  bootpCiaddr : Ip
  bootpGiaddr : Ip
  /-- Zero bytes of DHCP padding beyond the 300 bytes that 44 R323 asks for. -/
  dhcpExtraPad : Nat
  /-- Sequence and acknowledgement number of a RST+ACK (44 R336). -/
  rstSeq : BitVec 32
  rstAck : BitVec 32
  /-- Whether a REQUEST whose XID or client address differs from the recorded ones is answered (U8). -/
  answerMismatch : Bool
  ipOptions : IpOptions
  /-- Whether a SYN that carries TCP options is dropped. -/
  dropSynOptions : Bool
  /-- Whether a segment whose sequence number is not `their_seq` is dropped. -/
  checkSeq : Bool
  /-- Whether a FIN that carries data has its data forwarded first. -/
  finData : Bool
  /-- Whether `virtual_tcp_poll` needs `established`. -/
  pollNeedsEstablished : Bool
deriving DecidableEq, Repr, Inhabited

/-- One answer of the `VNet` oracle: any frames with any update of the environment state and, on a
SEND, of the twelve image bytes GAR, SUBR, SIPR (42 R264); or the responders of file 44 under given
choices (44 R310). -/
inductive VNetAnswer where
  /-- The unconstrained oracle: the frames, the new environment state if it changes, and GAR, SUBR,
  SIPR if they are written. -/
  | oracle (frames : List Frame) (env : Option VEnv) (regs : Option (Ip × Ip × Ip))
  /-- The responders of file 44. -/
  | responder (c : VNetChoices)
deriving DecidableEq, Repr, Inhabited

/-! ## Calls the block makes on its environment -/

/-- The two cards (30 R122). -/
inductive Card where
  | uthernet2
  | mouse
deriving DecidableEq, Repr

/-- One call of the block on its environment: the operations of 42 R260 and R264, those of the virtual
TCP responder (44 R331, R333, R345), and what the slot calls tell the dispatcher (43 R290). -/
inductive EnvCall where
  | openStream
  | openDgram
  | bindListen (h : Handle) (port : Word16) (backlog : Nat)
  | connect (h : Handle) (ip : Ip) (port : Word16)
  | writable (h : Handle)
  | readable (h : Handle)
  | soError (h : Handle)
  | recv (h : Handle) (max : Nat)
  | accept (h : Handle)
  | send (h : Handle) (data : List Byte)
  | close (h : Handle)
  | vnetFrame (frame : Frame)
  | vnetPoll
  /-- Connect a stream socket to 127.0.0.1 at this port, waiting up to 100 ms (44 R331). -/
  | vtcpConnect (port : Word16)
  /-- Forward a payload (44 R333). -/
  | vtcpForward (h : Handle) (data : List Byte)
  /-- Read what arrives within 50 ms (44 R333). -/
  | vtcpWait (h : Handle)
  /-- Read with zero timeout (44 R345). -/
  | vtcpRead (h : Handle)
  /-- Tell the dispatcher in which slot a card sits (43 R290). -/
  | slot (card : Card) (s : Int)
deriving DecidableEq, Repr

/-! ## Free values -/

/-- The answer of the host's sockets at the `k`-th draw when no script gives one (42 R260: "the model
must admit every listed answer at every call"). No body: nothing is known of it (log 7): safe. -/
opaque Config.hostAnswer : Nat → HostAnswer

/-- What the responders of file 44 choose at the `k`-th call when no script says (44 R350, U8). No
body (log 11): safe. -/
opaque Config.vnetChoices : Nat → VNetChoices

/-- `addr_ptr` after the `k`-th reset caused by a mode write (10 R75, 93 U1: "any 16-bit value"). No
body (log 6): safe. -/
opaque Config.addrPtrAfterReset : Nat → Word16

end Sys2Proof
end

