-- ==== Sys2Proof/Syntax.lean ====
section
/-! DEFINITION. The operations of the block: one constructor per row of spec/opcode_table.json. -/

namespace Sys2Proof

/-- One operation of the block (00 R2, 30 R156). A mnemonic with two rows in the table (a low and a
high range of unassigned soft switches) has two constructors. -/
inductive Instr where
  /-- U2.RD_ROM, 40 R161. -/
  | u2RdRom (ploc : Byte)
  /-- U2.WR_ROM, 40 R177. -/
  | u2WrRom (ploc val : Byte)
  /-- U2.RD_MODE, 40 R165. -/
  | u2RdMode
  /-- U2.WR_MODE, 40 R162. -/
  | u2WrMode (val : Byte)
  /-- U2.RD_ARH, 40 R166. -/
  | u2RdArh
  /-- U2.WR_ARH, 40 R163. -/
  | u2WrArh (val : Byte)
  /-- U2.RD_ARL, 40 R167. -/
  | u2RdArl
  /-- U2.WR_ARL, 40 R164. -/
  | u2WrArl (val : Byte)
  /-- U2.RD_DATA, 40 R168. -/
  | u2RdData
  /-- U2.WR_DATA, 40 R176. -/
  | u2WrData (val : Byte)
  /-- U2.RD_UNASSIGNED, soft switches 0..3, 40 R178. -/
  | u2RdUnassignedLow (psw : BitVec 2)
  /-- U2.RD_UNASSIGNED, soft switches 8..15 (`psw` is the offset less 8), 40 R178. -/
  | u2RdUnassignedHigh (psw : BitVec 3)
  /-- U2.WR_UNASSIGNED, soft switches 0..3, 40 R179. -/
  | u2WrUnassignedLow (psw : BitVec 2) (val : Byte)
  /-- U2.WR_UNASSIGNED, soft switches 8..15, 40 R179. -/
  | u2WrUnassignedHigh (psw : BitVec 3) (val : Byte)
  /-- IMG.RD_INVALID, 40 R171: image address 0x8000 + `a`. -/
  | imgRdInvalid (a : BitVec 15)
  /-- IMG.RD_TX_FSR, 40 R173: `low` is address bit 0 (false: the high byte). -/
  | imgRdTxFsr (n : SockId) (low : Bool)
  /-- IMG.RD_RX_RSR, 40 R173: `low` is address bit 0 (false: the high byte). -/
  | imgRdRxRsr (n : SockId) (low : Bool)
  /-- IMG.RD_SOCKREG, 40 R172: offset `o` of socket `n`'s page. -/
  | imgRdSockreg (n : SockId) (o : Byte)
  /-- IMG.RD_RXWIN, 40 R174: window offset `i`. -/
  | imgRdRxwin (n : SockId) (i : BitVec 11)
  /-- IMG.RD_PLAIN, 40 R175. -/
  | imgRdPlain (a : BitVec 15)
  /-- IMG.WR_INVALID, 40 R181: image address 0x8000 + `a`. -/
  | imgWrInvalid (a : BitVec 15) (v : Byte)
  /-- IMG.WR_MODE, 40 R182. -/
  | imgWrMode (v : Byte)
  /-- IMG.WR_SN_CR, 40 R183. -/
  | imgWrSnCr (n : SockId) (v : Byte)
  /-- IMG.WR_PLAIN, 40 R184. -/
  | imgWrPlain (a : BitVec 15) (v : Byte)
  /-- CMD.OPEN_TCP, 41 R201. -/
  | cmdOpenTcp (n : SockId)
  /-- CMD.OPEN_UDP, 41 R203. -/
  | cmdOpenUdp (n : SockId)
  /-- CMD.OPEN_MACRAW, 41 R202: always socket 0. -/
  | cmdOpenMacraw
  /-- CMD.OPEN_OTHER, 41 R211. -/
  | cmdOpenOther (n : SockId)
  /-- CMD.LISTEN, 41 R205. -/
  | cmdListen (n : SockId)
  /-- CMD.CONNECT, 41 R204. -/
  | cmdConnect (n : SockId)
  /-- CMD.DISCON, 41 R206. -/
  | cmdDiscon (n : SockId)
  /-- CMD.CLOSE, 41 R207. -/
  | cmdClose (n : SockId)
  /-- CMD.SEND_MACRAW, 41 R209. -/
  | cmdSendMacraw (n : SockId)
  /-- CMD.SEND_TCP, 41 R208. -/
  | cmdSendTcp (n : SockId)
  /-- CMD.RECV, 41 R210. -/
  | cmdRecv (n : SockId)
  /-- CMD.UNLISTED, 41 R212. -/
  | cmdUnlisted (n : SockId) (c : Byte)
  /-- POLL.SOCKET, 42 R240. -/
  | pollSocket (n : SockId)
  /-- POLL.VTCP, 42 R247: always socket 0. -/
  | pollVtcp
  /-- PIA.RD_ROM, 43 R271. -/
  | piaRdRom (ploc : Byte)
  /-- PIA.WR_ROM, 43 R272. -/
  | piaWrRom (ploc val : Byte)
  /-- PIA.RD_ORA, 43 R276. -/
  | piaRdOra
  /-- PIA.WR_ORA, 43 R275. -/
  | piaWrOra (val : Byte)
  /-- PIA.RD_DDRA, 43 R273. -/
  | piaRdDdra
  /-- PIA.WR_DDRA, 43 R274. -/
  | piaWrDdra (val : Byte)
  /-- PIA.RD_CRA, 43 R277. -/
  | piaRdCra
  /-- PIA.WR_CRA, 43 R278. -/
  | piaWrCra (val : Byte)
  /-- PIA.RD_ORB, 43 R280. -/
  | piaRdOrb
  /-- PIA.WR_ORB, 43 R279. -/
  | piaWrOrb (val : Byte)
  /-- PIA.RD_DDRB, 43 R285. -/
  | piaRdDdrb
  /-- PIA.WR_DDRB, 43 R287. -/
  | piaWrDdrb (val : Byte)
  /-- PIA.RD_CRB, 43 R283. -/
  | piaRdCrb
  /-- PIA.WR_CRB, 43 R281. -/
  | piaWrCrb (val : Byte)
  /-- PIA.RD_UNASSIGNED, soft switches 4..7 (`psw` is the offset less 4), 43 R286. -/
  | piaRdUnassignedLow (psw : BitVec 2)
  /-- PIA.RD_UNASSIGNED, soft switches 8..15 (`psw` is the offset less 8), 43 R286. -/
  | piaRdUnassignedHigh (psw : BitVec 3)
  /-- PIA.WR_UNASSIGNED, soft switches 4..7, 43 R286. -/
  | piaWrUnassignedLow (psw : BitVec 2) (val : Byte)
  /-- PIA.WR_UNASSIGNED, soft switches 8..15, 43 R286. -/
  | piaWrUnassignedHigh (psw : BitVec 3) (val : Byte)
  /-- U2.SET_SLOT, 43 R290. -/
  | u2SetSlot (slot : Int)
  /-- MOUSE.SET_SLOT, 43 R290. -/
  | mouseSetSlot (slot : Int)
  /-- MOUSE.SET_POSITION, 43 R291. -/
  | mouseSetPosition (x y : Int)
  /-- MOUSE.SET_BUTTON, 43 R292: true means pressed. -/
  | mouseSetButton (pressed : Bool)
  /-- MOUSE.GET_STATE, 43 R293. -/
  | mouseGetState
deriving DecidableEq, Repr

end Sys2Proof
end

