-- ==== Sys2Proof/WellFormed.lean ====
section
/-! DEFINITION. Which operations are well formed: the operands that a row of the table admits, where the operand's type does not already say it. -/

namespace Sys2Proof

/-- The offsets of a socket page whose reads are computed, Sn_TX_FSR and Sn_RX_RSR: rows 2a and 2b of
30 R132, tested before row 2c. -/
def WellFormed.computedOffset (o : Byte) : Bool :=
  o == 0x20 || o == 0x21 || o == 0x26 || o == 0x27

/-- The addresses that 30 R132 leaves to its last class on a read: below 0x8000, outside the socket
pages and the RX windows. -/
def WellFormed.plainRead (a : BitVec 15) : Bool :=
  !(0x400 ≤ a.toNat && a.toNat < 0x800) && !(0x6000 ≤ a.toNat)

/-- The addresses that 30 R133 leaves to its last class on a write: not the mode byte, not a socket
command register. -/
def WellFormed.plainWrite (a : BitVec 15) : Bool :=
  !(a.toNat == 0) && !(a.toNat == 0x401 || a.toNat == 0x501 || a.toNat == 0x601 || a.toNat == 0x701)

/-- The seven command bytes that 30 R142 lists. -/
def WellFormed.listedCommand (c : Byte) : Bool :=
  c == 0x01 || c == 0x02 || c == 0x04 || c == 0x08 || c == 0x10 || c == 0x20 || c == 0x40

/-- A slot number, 1..7 (00 R7). -/
def WellFormed.slot (s : Int) : Bool := decide (1 ≤ s) && decide (s ≤ 7)

/-- Whether the operands are ones that the operation's row admits. -/
def WellFormed : Instr → Bool
  | .imgRdSockreg _ o => !WellFormed.computedOffset o
  | .imgRdPlain a => WellFormed.plainRead a
  | .imgWrPlain a _ => WellFormed.plainWrite a
  | .cmdUnlisted _ c => !WellFormed.listedCommand c
  | .u2SetSlot s => WellFormed.slot s
  | .mouseSetSlot s => WellFormed.slot s
  | .u2RdRom _ | .u2WrRom _ _ | .u2RdMode | .u2WrMode _ | .u2RdArh | .u2WrArh _ | .u2RdArl | .u2WrArl _
  | .u2RdData | .u2WrData _ | .u2RdUnassignedLow _ | .u2RdUnassignedHigh _ | .u2WrUnassignedLow _ _
  | .u2WrUnassignedHigh _ _ => true
  | .imgRdInvalid _ | .imgRdTxFsr _ _ | .imgRdRxRsr _ _ | .imgRdRxwin _ _ | .imgWrInvalid _ _
  | .imgWrMode _ | .imgWrSnCr _ _ => true
  | .cmdOpenTcp _ | .cmdOpenUdp _ | .cmdOpenMacraw | .cmdOpenOther _ | .cmdListen _ | .cmdConnect _
  | .cmdDiscon _ | .cmdClose _ | .cmdSendMacraw _ | .cmdSendTcp _ | .cmdRecv _ => true
  | .pollSocket _ | .pollVtcp => true
  | .piaRdRom _ | .piaWrRom _ _ | .piaRdOra | .piaWrOra _ | .piaRdDdra | .piaWrDdra _ | .piaRdCra
  | .piaWrCra _ | .piaRdOrb | .piaWrOrb _ | .piaRdDdrb | .piaWrDdrb _ | .piaRdCrb | .piaWrCrb _
  | .piaRdUnassignedLow _ | .piaRdUnassignedHigh _ | .piaWrUnassignedLow _ _
  | .piaWrUnassignedHigh _ _ => true
  | .mouseSetPosition _ _ | .mouseSetButton _ | .mouseGetState => true

end Sys2Proof
end

