-- ==== Sys2Proof/Decode.lean ====
section
/-! DEFINITION. Requests, their decoding into operations (total; what encodes nothing is rejected by name), and the encoder. -/

namespace Sys2Proof

/-- One request put to the block, as it arrives: a bus access as its 20-bit access word (30 R122, in
whole bytes: 24 bits, the top four 0), or an operation that no access word encodes (30 R156): an image
access by address, a command byte for a socket, a poll, a call of the emulator (log 1, 2). -/
inductive Request where
  /-- A bus access (format BUS). -/
  | bus (w : BitVec 24)
  /-- An image read (format IADDR, 30 R132). -/
  | imageRead (a : BitVec 16)
  /-- An image write (format IADDR, 30 R133). -/
  | imageWrite (a : BitVec 16) (v : Byte)
  /-- A command byte for socket `n` (format CMD, 30 R142). -/
  | command (n : SockId) (c : Byte)
  /-- `socket_poll(n)` (format INTERNAL). -/
  | pollSocket (n : SockId)
  /-- `virtual_tcp_poll(0)` (format INTERNAL). -/
  | pollVtcp
  /-- `uthernet2_set_slot(s)` (format CALL). -/
  | callU2SetSlot (s : Int)
  /-- `mouse_set_slot(s)` (format CALL). -/
  | callMouseSetSlot (s : Int)
  /-- `mouse_set_position(x, y)` (format CALL). -/
  | callSetPosition (x y : Int)
  /-- `mouse_set_button(b)` (format CALL). -/
  | callSetButton (b : Bool)
  /-- `mouse_get_state()` (format CALL). -/
  | callGetState
deriving DecidableEq, Repr

/-- Why a request is no operation. Every one is raised by the decoder, and is what the spec itself
refuses (93 U11, U12): safe. -/
inductive DecodeError where
  /-- The access word has a bit above bit 19 (30 R122: it has 20 bits). -/
  | wordTooWide
  /-- Bit 16 of the access word is set (30 R122: "always 0"). -/
  | bit16Set
  /-- A read with a value: `rw = 0` and `val` not 0 (30 R122). -/
  | readWithValue
  /-- A soft switch above 15: `space = 0` and a bit of 15..12 set (30 R122). -/
  | softSwitchAbove15
  /-- A slot outside 1..7 (93 U12). -/
  | slotOutOfRange
deriving DecidableEq, Repr

/-- What OPEN opens, by `Sn_MR` and the socket's number (41 R200). -/
inductive OpenKind where
  | tcp
  | udp
  | macraw
  | other
deriving DecidableEq, Repr

/-- The conditions on the state that choose between rows of the table with one encoding (30 R151, 41
R200): the register-select map, CRA bit 2, CRB bit 2, what OPEN would open, whether the status is
MACRAW. -/
structure Cond where
  rsMap : PiaMap
  dataA : Bool
  dataB : Bool
  openKind : OpenKind
  statusMacraw : Bool
deriving DecidableEq, Repr

/-- The conditions right after reset, with the default parameters. -/
def Cond.atReset : Cond := ⟨PiaMap.default, false, false, .other, false⟩

/-! ## The access word (30 R122) -/

/-- The fields of an access word. -/
structure Access where
  card : Bool
  space : Bool
  rw : Bool
  off : Byte
  val : Byte
deriving DecidableEq, Repr

/-- The fields packed as 30 R122 lays them out. -/
def packAccess (a : Access) : BitVec 24 :=
  BitVec.ofNat 24 (a.card.toNat * 0x80000 + a.space.toNat * 0x40000 + a.rw.toNat * 0x20000
    + a.off.toNat * 0x100 + a.val.toNat)

/-- The fields of an access word, or why it encodes no access (30 R122). -/
def unpackAccess (w : BitVec 24) : Except DecodeError Access :=
  let x := w.toNat
  let a : Access :=
    { card := x / 0x80000 % 2 == 1, space := x / 0x40000 % 2 == 1, rw := x / 0x20000 % 2 == 1,
      off := BitVec.ofNat 8 (x / 0x100), val := BitVec.ofNat 8 x }
  if 0x100000 ≤ x then .error .wordTooWide
  else if x / 0x10000 % 2 = 1 then .error .bit16Set
  else if a.rw = false ∧ a.val ≠ 0 then .error .readWithValue
  else if a.space = false ∧ 16 ≤ a.off.toNat then .error .softSwitchAbove15
  else .ok a

/-! ## Soft-switch maps -/

/-- Reads of the Uthernet II soft switches (30 R130). -/
def decodeU2Read (off : Byte) : Instr :=
  if off.toNat < 4 then .u2RdUnassignedLow (BitVec.ofNat 2 off.toNat)
  else if off.toNat = 4 then .u2RdMode
  else if off.toNat = 5 then .u2RdArh
  else if off.toNat = 6 then .u2RdArl
  else if off.toNat = 7 then .u2RdData
  else .u2RdUnassignedHigh (BitVec.ofNat 3 off.toNat)

/-- Writes of the Uthernet II soft switches (30 R130). -/
def decodeU2Write (off val : Byte) : Instr :=
  if off.toNat < 4 then .u2WrUnassignedLow (BitVec.ofNat 2 off.toNat) val
  else if off.toNat = 4 then .u2WrMode val
  else if off.toNat = 5 then .u2WrArh val
  else if off.toNat = 6 then .u2WrArl val
  else if off.toNat = 7 then .u2WrData val
  else .u2WrUnassignedHigh (BitVec.ofNat 3 off.toNat) val

/-- The register that soft switch `off` (0..3) of the mouse card addresses (30 R150). -/
def PiaMap.select (m : PiaMap) (off : Nat) : PiaSel :=
  if off = 0 then m.at0 else if off = 1 then m.at1 else if off = 2 then m.at2 else m.at3

/-- The soft switch that addresses a register: the first of 0..3 whose register it is. -/
def PiaMap.offsetOf (m : PiaMap) (r : PiaSel) : Nat :=
  if m.at0 = r then 0 else if m.at1 = r then 1 else if m.at2 = r then 2 else 3

/-- Whether every register has a soft switch. -/
def PiaMap.onto (m : PiaMap) : Bool :=
  m.select (m.offsetOf .portA) == .portA && m.select (m.offsetOf .ctlA) == .ctlA
    && m.select (m.offsetOf .portB) == .portB && m.select (m.offsetOf .ctlB) == .ctlB

/-- Reads of the mouse card's soft switches (30 R151, 43 R270). -/
def decodePiaRead (c : Cond) (off : Byte) : Instr :=
  if off.toNat < 4 then
    match c.rsMap.select off.toNat with
    | .portA => if c.dataA then .piaRdOra else .piaRdDdra
    | .ctlA => .piaRdCra
    | .portB => if c.dataB then .piaRdOrb else .piaRdDdrb
    | .ctlB => .piaRdCrb
  else if off.toNat < 8 then .piaRdUnassignedLow (BitVec.ofNat 2 off.toNat)
  else .piaRdUnassignedHigh (BitVec.ofNat 3 off.toNat)

/-- Writes of the mouse card's soft switches (30 R151, 43 R270). -/
def decodePiaWrite (c : Cond) (off val : Byte) : Instr :=
  if off.toNat < 4 then
    match c.rsMap.select off.toNat with
    | .portA => if c.dataA then .piaWrOra val else .piaWrDdra val
    | .ctlA => .piaWrCra val
    | .portB => if c.dataB then .piaWrOrb val else .piaWrDdrb val
    | .ctlB => .piaWrCrb val
  else if off.toNat < 8 then .piaWrUnassignedLow (BitVec.ofNat 2 off.toNat) val
  else .piaWrUnassignedHigh (BitVec.ofNat 3 off.toNat) val

/-- The operation of a bus access (40 R160, 43 R270). -/
def decodeAccess (c : Cond) (a : Access) : Instr :=
  match a.card, a.space, a.rw with
  | false, true, false => .u2RdRom a.off
  | false, true, true => .u2WrRom a.off a.val
  | false, false, false => decodeU2Read a.off
  | false, false, true => decodeU2Write a.off a.val
  | true, true, false => .piaRdRom a.off
  | true, true, true => .piaWrRom a.off a.val
  | true, false, false => decodePiaRead c a.off
  | true, false, true => decodePiaWrite c a.off a.val

/-! ## Image addresses -/

/-- The class of an image address on a read, tested in the order of 30 R132; the fields as 30 R125. -/
def decodeImageRead (a : BitVec 16) : Instr :=
  let x := a.toNat
  if 0x8000 ≤ x then .imgRdInvalid (BitVec.ofNat 15 x)
  else if x / 0x400 = 1 then
    if x % 0x100 / 2 = 0x10 then .imgRdTxFsr (Fin.ofNat 4 (x / 0x100)) (x % 2 == 1)
    else if x % 0x100 / 2 = 0x13 then .imgRdRxRsr (Fin.ofNat 4 (x / 0x100)) (x % 2 == 1)
    else .imgRdSockreg (Fin.ofNat 4 (x / 0x100)) (BitVec.ofNat 8 x)
  else if x / 0x2000 = 3 then .imgRdRxwin (Fin.ofNat 4 (x / 0x800)) (BitVec.ofNat 11 x)
  else .imgRdPlain (BitVec.ofNat 15 x)

/-- The class of an image address on a write, tested in the order of 30 R133. -/
def decodeImageWrite (a : BitVec 16) (v : Byte) : Instr :=
  let x := a.toNat
  if 0x8000 ≤ x then .imgWrInvalid (BitVec.ofNat 15 x) v
  else if x = 0 then .imgWrMode v
  else if x / 0x400 = 1 ∧ x % 0x100 = 1 then .imgWrSnCr (Fin.ofNat 4 (x / 0x100)) v
  else .imgWrPlain (BitVec.ofNat 15 x) v

/-! ## Command bytes -/

/-- The operation a command byte starts on socket `n` (30 R142, 41 R200). LISTEN, CONNECT and SEND_TCP
are chosen whatever the status: what they do when their precondition fails is part of their meaning
(41 R213). -/
def decodeCommand (c : Cond) (n : SockId) (b : Byte) : Instr :=
  if b = 0x01 then
    match c.openKind with
    | .tcp => .cmdOpenTcp n
    | .udp => .cmdOpenUdp n
    | .macraw => .cmdOpenMacraw
    | .other => .cmdOpenOther n
  else if b = 0x02 then .cmdListen n
  else if b = 0x04 then .cmdConnect n
  else if b = 0x08 then .cmdDiscon n
  else if b = 0x10 then .cmdClose n
  else if b = 0x20 then (if c.statusMacraw then .cmdSendMacraw n else .cmdSendTcp n)
  else if b = 0x40 then .cmdRecv n
  else .cmdUnlisted n b

/-! ## Requests -/

/-- The operation of a request under the conditions of the state, or why it is none. -/
def decode (c : Cond) : Request → Except DecodeError Instr
  | .bus w =>
    match unpackAccess w with
    | .ok a => .ok (decodeAccess c a)
    | .error e => .error e
  | .imageRead a => .ok (decodeImageRead a)
  | .imageWrite a v => .ok (decodeImageWrite a v)
  | .command n b => .ok (decodeCommand c n b)
  | .pollSocket n => .ok (.pollSocket n)
  | .pollVtcp => .ok .pollVtcp
  | .callU2SetSlot s => if WellFormed.slot s then .ok (.u2SetSlot s) else .error .slotOutOfRange
  | .callMouseSetSlot s => if WellFormed.slot s then .ok (.mouseSetSlot s) else .error .slotOutOfRange
  | .callSetPosition x y => .ok (.mouseSetPosition x y)
  | .callSetButton b => .ok (.mouseSetButton b)
  | .callGetState => .ok .mouseGetState

/-- The socket a request's conditions are about: that of a command byte. -/
def Request.socket : Request → SockId
  | .command n _ => n
  | _ => 0

/-- Whether a request is an access to a card, and not a call of the emulator. -/
def Request.isAccess : Request → Bool
  | .bus _ | .imageRead _ | .imageWrite _ _ | .command _ _ | .pollSocket _ | .pollVtcp => true
  | .callU2SetSlot _ | .callMouseSetSlot _ | .callSetPosition _ _ | .callSetButton _
  | .callGetState => false

/-- The request whose bits the opcode table numbers: 8 bits are a command byte (its row gives no bits
to the socket: socket 0), 16 bits an image address (its row gives no bit to the direction: a read),
more an access word (log 3). -/
def Request.ofTableWord (nbits w : Nat) : Request :=
  if nbits ≤ 8 then .command 0 (BitVec.ofNat 8 w)
  else if nbits ≤ 16 then .imageRead (BitVec.ofNat 16 w)
  else .bus (BitVec.ofNat 24 w)

/-- The operation the decoder reads from a word of the opcode table, under the conditions that hold
right after reset (log 3). -/
def decodeTableWord (nbits w : Nat) : Option Instr :=
  if nbits ≤ 24 ∧ w < 2 ^ nbits then
    match decode Cond.atReset (Request.ofTableWord nbits w) with
    | .ok i => some i
    | .error _ => none
  else none

/-! ## The encoder -/

/-- The access word of an access. -/
def busWord (card space rw : Bool) (off val : Byte) : Request :=
  .bus (packAccess ⟨card, space, rw, off, val⟩)

/-- The image address of offset `o` of socket `n`'s page (30 R125). -/
def pageAddr (n : SockId) (o : Byte) : BitVec 16 :=
  BitVec.ofNat 16 (0x400 + n.val * 0x100 + o.toNat)

/-- The request that an operation answers to, with the registers of the PIA at the offsets of `m`. -/
def encode (m : PiaMap) : Instr → Request
  | .u2RdRom p => busWord false true false p 0
  | .u2WrRom p v => busWord false true true p v
  | .u2RdMode => busWord false false false 4 0
  | .u2WrMode v => busWord false false true 4 v
  | .u2RdArh => busWord false false false 5 0
  | .u2WrArh v => busWord false false true 5 v
  | .u2RdArl => busWord false false false 6 0
  | .u2WrArl v => busWord false false true 6 v
  | .u2RdData => busWord false false false 7 0
  | .u2WrData v => busWord false false true 7 v
  | .u2RdUnassignedLow s => busWord false false false (BitVec.ofNat 8 s.toNat) 0
  | .u2RdUnassignedHigh s => busWord false false false (BitVec.ofNat 8 (s.toNat + 8)) 0
  | .u2WrUnassignedLow s v => busWord false false true (BitVec.ofNat 8 s.toNat) v
  | .u2WrUnassignedHigh s v => busWord false false true (BitVec.ofNat 8 (s.toNat + 8)) v
  | .imgRdInvalid a => .imageRead (BitVec.ofNat 16 (a.toNat + 0x8000))
  | .imgRdTxFsr n low => .imageRead (pageAddr n (if low then 0x21 else 0x20))
  | .imgRdRxRsr n low => .imageRead (pageAddr n (if low then 0x27 else 0x26))
  | .imgRdSockreg n o => .imageRead (pageAddr n o)
  | .imgRdRxwin n i => .imageRead (BitVec.ofNat 16 (0x6000 + n.val * 0x800 + i.toNat))
  | .imgRdPlain a => .imageRead (BitVec.ofNat 16 a.toNat)
  | .imgWrInvalid a v => .imageWrite (BitVec.ofNat 16 (a.toNat + 0x8000)) v
  | .imgWrMode v => .imageWrite 0 v
  | .imgWrSnCr n v => .imageWrite (pageAddr n 1) v
  | .imgWrPlain a v => .imageWrite (BitVec.ofNat 16 a.toNat) v
  | .cmdOpenTcp n => .command n 0x01
  | .cmdOpenUdp n => .command n 0x01
  | .cmdOpenMacraw => .command 0 0x01
  | .cmdOpenOther n => .command n 0x01
  | .cmdListen n => .command n 0x02
  | .cmdConnect n => .command n 0x04
  | .cmdDiscon n => .command n 0x08
  | .cmdClose n => .command n 0x10
  | .cmdSendMacraw n => .command n 0x20
  | .cmdSendTcp n => .command n 0x20
  | .cmdRecv n => .command n 0x40
  | .cmdUnlisted n c => .command n c
  | .pollSocket n => .pollSocket n
  | .pollVtcp => .pollVtcp
  | .piaRdRom p => busWord true true false p 0
  | .piaWrRom p v => busWord true true true p v
  | .piaRdOra => busWord true false false (BitVec.ofNat 8 (m.offsetOf .portA)) 0
  | .piaWrOra v => busWord true false true (BitVec.ofNat 8 (m.offsetOf .portA)) v
  | .piaRdDdra => busWord true false false (BitVec.ofNat 8 (m.offsetOf .portA)) 0
  | .piaWrDdra v => busWord true false true (BitVec.ofNat 8 (m.offsetOf .portA)) v
  | .piaRdCra => busWord true false false (BitVec.ofNat 8 (m.offsetOf .ctlA)) 0
  | .piaWrCra v => busWord true false true (BitVec.ofNat 8 (m.offsetOf .ctlA)) v
  | .piaRdOrb => busWord true false false (BitVec.ofNat 8 (m.offsetOf .portB)) 0
  | .piaWrOrb v => busWord true false true (BitVec.ofNat 8 (m.offsetOf .portB)) v
  | .piaRdDdrb => busWord true false false (BitVec.ofNat 8 (m.offsetOf .portB)) 0
  | .piaWrDdrb v => busWord true false true (BitVec.ofNat 8 (m.offsetOf .portB)) v
  | .piaRdCrb => busWord true false false (BitVec.ofNat 8 (m.offsetOf .ctlB)) 0
  | .piaWrCrb v => busWord true false true (BitVec.ofNat 8 (m.offsetOf .ctlB)) v
  | .piaRdUnassignedLow s => busWord true false false (BitVec.ofNat 8 (s.toNat + 4)) 0
  | .piaRdUnassignedHigh s => busWord true false false (BitVec.ofNat 8 (s.toNat + 8)) 0
  | .piaWrUnassignedLow s v => busWord true false true (BitVec.ofNat 8 (s.toNat + 4)) v
  | .piaWrUnassignedHigh s v => busWord true false true (BitVec.ofNat 8 (s.toNat + 8)) v
  | .u2SetSlot s => .callU2SetSlot s
  | .mouseSetSlot s => .callMouseSetSlot s
  | .mouseSetPosition x y => .callSetPosition x y
  | .mouseSetButton b => .callSetButton b
  | .mouseGetState => .callGetState

/-- Whether the conditions choose the operation among the rows that share its encoding (the
"condition" of its row of the table). -/
def Cond.selects (c : Cond) : Instr → Bool
  | .piaRdOra | .piaWrOra _ => c.dataA
  | .piaRdDdra | .piaWrDdra _ => !c.dataA
  | .piaRdOrb | .piaWrOrb _ => c.dataB
  | .piaRdDdrb | .piaWrDdrb _ => !c.dataB
  | .cmdOpenTcp _ => c.openKind == .tcp
  | .cmdOpenUdp _ => c.openKind == .udp
  | .cmdOpenMacraw => c.openKind == .macraw
  | .cmdOpenOther _ => c.openKind == .other
  | .cmdSendMacraw _ => c.statusMacraw
  | .cmdSendTcp _ => !c.statusMacraw
  | .u2RdRom _ | .u2WrRom _ _ | .u2RdMode | .u2WrMode _ | .u2RdArh | .u2WrArh _ | .u2RdArl | .u2WrArl _
  | .u2RdData | .u2WrData _ | .u2RdUnassignedLow _ | .u2RdUnassignedHigh _ | .u2WrUnassignedLow _ _
  | .u2WrUnassignedHigh _ _ => true
  | .imgRdInvalid _ | .imgRdTxFsr _ _ | .imgRdRxRsr _ _ | .imgRdSockreg _ _ | .imgRdRxwin _ _
  | .imgRdPlain _ | .imgWrInvalid _ _ | .imgWrMode _ | .imgWrSnCr _ _ | .imgWrPlain _ _ => true
  | .cmdListen _ | .cmdConnect _ | .cmdDiscon _ | .cmdClose _ | .cmdRecv _ | .cmdUnlisted _ _ => true
  | .pollSocket _ | .pollVtcp => true
  | .piaRdRom _ | .piaWrRom _ _ | .piaRdCra | .piaWrCra _ | .piaRdCrb | .piaWrCrb _
  | .piaRdUnassignedLow _ | .piaRdUnassignedHigh _ | .piaWrUnassignedLow _ _
  | .piaWrUnassignedHigh _ _ => true
  | .u2SetSlot _ | .mouseSetSlot _ | .mouseSetPosition _ _ | .mouseSetButton _ | .mouseGetState => true

end Sys2Proof
end

