-- ==== Sys2Proof/Machine/State.lean ====
section
/-! DEFINITION. The state of the machine as plain data, the reasons a step can stop, and the state after reset. -/

namespace Sys2Proof.Machine

/-- A byte memory: the cells that differ from what an unlisted address reads as, addresses strictly
rising (log 15). -/
abbrev Memory := List Host.Cell

/-- The extension state of one socket (10 R60 to R64). -/
structure Sock where
  /-- The host handle, if the socket owns one (10 R60). -/
  handle : Option Handle
  /-- A non-blocking connect is in progress (10 R25, R61). -/
  connecting : Bool
  /-- `rx_staging`, 4096 bytes (10 R62). -/
  staging : Memory
  /-- `rx_head` (10 R63). -/
  rxHead : Nat
  /-- `rx_tail` (10 R63). -/
  rxTail : Nat
  /-- MACRAW mode (10 R25, R64). -/
  macraw : Bool
deriving DecidableEq, Repr

/-- A socket right after reset (10 R75). -/
def Sock.reset : Sock :=
  { handle := none, connecting := false, staging := [], rxHead := 0, rxTail := 0, macraw := false }

/-- The four sockets (10 R20). -/
structure Sockets where
  s0 : Sock
  s1 : Sock
  s2 : Sock
  s3 : Sock
deriving DecidableEq, Repr

/-- The six registers of the 6821 (10 R23, R68, R69). -/
structure Pia where
  ora : Byte
  orb : Byte
  ddra : Byte
  ddrb : Byte
  cra : Byte
  crb : Byte
deriving DecidableEq, Repr

/-- The motion state of the mouse card (10 R70). -/
structure Mouse where
  /-- The accumulated motion not yet delivered. -/
  dx : Int
  dy : Int
  /-- The last position given by `mouse_set_position`. -/
  x : Int
  y : Int
  /-- True: pressed. -/
  button : Bool
  /-- The quadrature tick phases. -/
  xphase : Bool
  yphase : Bool
deriving DecidableEq, Repr

/-- What `mouse_get_state` returns (43 R293). -/
structure MouseReport where
  x : Int
  y : Int
  button : Bool
deriving DecidableEq, Repr

/-- The whole state: the block's (10 R20), its parameters (00 R8), and the model's own fields, which
hold what the outside world puts in and takes out. -/
structure State where
  /-- `mem`, the 32 KiB image (10 R20); 0x0000 is the mode byte (10 R22). -/
  mem : Memory
  /-- `addr_ptr` (10 R21). -/
  addrPtr : Word16
  /-- `sock[0..3]` (10 R60 to R64). -/
  socks : Sockets
  /-- `dhcp_state`, `dhcp_xid`, `client_mac`, `virtual_tcp` (10 R65 to R67). -/
  venv : VEnv
  /-- The PIA of the mouse card (10 R68, R69). -/
  pia : Pia
  /-- The motion state of the mouse card (10 R70). -/
  mouse : Mouse
  /-- `MOUSE_ROM`: where it differs from the fallback image (10 R71, 43 R284; log 16). -/
  mouseRom : Memory
  /-- The parameters with a plain value (00 R8); only the slot calls set any of them (43 R290). -/
  params : Params
  /-- MODEL: the requests still to come, the next one first (log 1). -/
  pending : List Request
  /-- MODEL: an access to a card has been made (93 U12; log 22). -/
  started : Bool
  /-- MODEL: the byte the latest read delivered to the CPU (30 R120; log 14). -/
  delivered : Option Byte
  /-- MODEL: what the latest `mouse_get_state` returned (43 R293; log 14). -/
  report : Option MouseReport
  /-- MODEL: answers of the `Host` oracle, in draw order (42 R260; log 7). -/
  hostScript : List HostAnswer
  /-- MODEL: how many answers the `Host` oracle has given (log 7). -/
  hostDraws : Nat
  /-- MODEL: answers of the `VNet` oracle, in draw order (42 R264; log 10). -/
  vnetScript : List VNetAnswer
  /-- MODEL: how many answers the `VNet` oracle has given (log 10). -/
  vnetDraws : Nat
  /-- MODEL: how many resets a mode write has caused (log 6). -/
  resets : Nat
  /-- MODEL: the calls made on the environment, the latest first (log 13). -/
  envLog : List EnvCall
deriving DecidableEq, Repr

/-- Why a step can end in a fault. No constructor: "No operation of the block raises an exception,
faults, stalls or refuses a bus access" (60 R360; log 24). -/
inductive Fault
deriving DecidableEq, Repr

/-- Why a step can end in a refusal. Every reason but `notModelled` is a case that the spec itself
says a model refuses (93 U4, U11, U12, U14) or shuts out (D38). -/
inductive Refusal where
  /-- An instruction that has no meaning in the model; raised by an arm of `exec`. Safe. -/
  | notModelled (mnemonic : String)
  /-- The request is no operation (93 U11, U12); raised by the fetch. Safe. -/
  | badRequest (e : DecodeError)
  /-- RECV with `Sn_RX_RD` naming a position beyond the staged data (41 R210, 93 U4); raised by RECV.
  Safe. -/
  | recvBeyondStaged
  /-- `Sn_RX_RSR` read, or RECV, on a MACRAW socket whose tail is below its head (70 R414, 93 U14);
  raised by those two. Safe. -/
  | macrawTailBelowHead
  /-- A slot outside 1..7 (93 U12); raised by the two slot calls. Safe. -/
  | slotOutOfRange
  /-- A slot call after emulation has started (93 U12); raised by the two slot calls. Safe. -/
  | slotAfterStart
  /-- A slot that the other card has, the two being distinct (D38); raised by the two slot calls (log 22).
  Safe. -/
  | slotTaken
deriving DecidableEq, Repr

/-- The outcome of an operation of this machine. -/
abbrev Result := Host.Outcome State Fault Refusal

/-- The state after power-on and both card initializers (10 R75, R76; 70 R390), with the default
parameters (00 R8). `addrPtr` is a DESIGN CHOICE (log 5): unsafe. -/
def State.reset : State :=
  { mem := []
    addrPtr := 0
    socks := ⟨Sock.reset, Sock.reset, Sock.reset, Sock.reset⟩
    venv := { dhcpState := .idle, dhcpXid := 0, clientMac := 0, vtcp := none }
    pia := { ora := 0, orb := 0, ddra := 0, ddrb := 0, cra := 0, crb := 0 }
    mouse := { dx := 0, dy := 0, x := 512, y := 512, button := false, xphase := false, yphase := false }
    mouseRom := []
    params := Params.default
    pending := []
    started := false
    delivered := none
    report := none
    hostScript := []
    hostDraws := 0
    vnetScript := []
    vnetDraws := 0
    resets := 0
    envLog := [] }

end Sys2Proof.Machine
end

