-- ==== Sys2Proof/Machine/Answers.lean ====
section
/-! DEFINITION. How an operation reads the answer it can take from an answer of the `Host` oracle (42 R260), so that every answer is a legal one and every legal one can be given. -/

namespace Sys2Proof

/-- The handle of the virtual TCP flow, if a flow is live and its handle open. -/
def VEnv.handle (v : VEnv) : Option Handle :=
  match v.vtcp with
  | some f => f.handle
  | none => none

/-- A fresh handle: the one proposed if it differs from every live handle and from 0, 1, 2, otherwise
the least number above all of those (42 R260; log 8). Every fresh handle can be proposed. -/
def freshHandle (live : List Handle) (h : Handle) : Handle :=
  if 3 ≤ h ∧ h ∉ live then h else live.foldr max 2 + 1

/-- The answer of an operation that yields a handle: a fresh one, or failure (42 R260). -/
def HostAnswer.asHandle (a : HostAnswer) (live : List Handle) : Option Handle :=
  match a with
  | .handle h => some (freshHandle live h)
  | _ => none

/-- The answer of bind_listen and so_error: whether it is `ok` (42 R260). -/
def HostAnswer.isOk : HostAnswer → Bool
  | .ok => true
  | _ => false

/-- The answer of writable and readable (42 R260). -/
def HostAnswer.isTrue : HostAnswer → Bool
  | .flag b => b
  | _ => false

/-- The answer of the draw in {keep, close} of a failed LISTEN (41 R205): whether it is `close`. -/
def HostAnswer.isClose : HostAnswer → Bool
  | .close => true
  | _ => false

/-- The answers of connect (42 R260). -/
inductive ConnectResult where
  | immediate
  | inProgress
  | fail
deriving DecidableEq, Repr

/-- The answer of connect (42 R260). -/
def HostAnswer.asConnect : HostAnswer → ConnectResult
  | .immediate => .immediate
  | .inProgress => .inProgress
  | _ => .fail

/-- The answer of recv with bound `max`: a byte string of length 0..`max`, or would_block (42 R260). -/
def HostAnswer.asBytes (a : HostAnswer) (max : Nat) : Option (List Byte) :=
  match a with
  | .bytes l => some (l.take max)
  | _ => none

/-- The answer of send of `len` bytes: a count 0..`len`, 0 also for an error (41 R208, 42 R260). -/
def HostAnswer.asCount (a : HostAnswer) (len : Nat) : Nat :=
  match a with
  | .count k => min k len
  | _ => 0

/-- The answer of the virtual TCP response wait: what was read, and whether a zero-byte read ended it
(44 R333). -/
def HostAnswer.asArrived : HostAnswer → List (List Byte) × Bool
  | .arrived reads eof => (reads, eof)
  | _ => ([], false)

end Sys2Proof
end

