-- ==== Sys2Proof/Machine/Bytes.lean ====
section
/-! DEFINITION. Byte order and byte strings: 16-bit values from bytes and back, addresses as octets, fields of frames, the Internet checksum. -/

namespace Sys2Proof.Machine

/-- The more significant byte of a 16-bit value, `v[15:8]`. -/
def hiByte (v : Word16) : Byte := v.extractLsb' 8 8

/-- The less significant byte of a 16-bit value, `v[7:0]`. -/
def loByte (v : Word16) : Byte := v.extractLsb' 0 8

/-- `hi || lo` (00 R9): the first byte is the more significant (20 R90, log 19). -/
def word16 (hi lo : Byte) : Word16 := hi ++ lo

/-- A 16-bit value as two bytes, big-endian. -/
def be16 (v : Word16) : List Byte := [hiByte v, loByte v]

/-- A 32-bit value as four bytes, big-endian; an IPv4 address as its octets (20 R91). -/
def be32 (v : BitVec 32) : List Byte :=
  [v.extractLsb' 24 8, v.extractLsb' 16 8, v.extractLsb' 8 8, v.extractLsb' 0 8]

/-- An Ethernet address as its six bytes (20 R91). -/
def macBytes (v : Mac) : List Byte :=
  [v.extractLsb' 40 8, v.extractLsb' 32 8, v.extractLsb' 24 8, v.extractLsb' 16 8, v.extractLsb' 8 8,
    v.extractLsb' 0 8]

/-- Four octets as an IPv4 address, first octet first (20 R91). -/
def ipOf (a b c d : Byte) : Ip := a ++ b ++ c ++ d

/-- `n` zero bytes. -/
def zeros (n : Nat) : List Byte := List.replicate n 0

/-- Byte `i` of a frame, 0 past its end (every responder checks the length it needs first). -/
def byteAt (f : Frame) (i : Nat) : Byte := f.getD i 0

/-- Bytes `i`, `i+1` of a frame as a 16-bit value, big-endian. -/
def word16At (f : Frame) (i : Nat) : Word16 := word16 (byteAt f i) (byteAt f (i + 1))

/-- Bytes `i` .. `i+3` of a frame as a 32-bit value, big-endian. -/
def word32At (f : Frame) (i : Nat) : BitVec 32 :=
  ipOf (byteAt f i) (byteAt f (i + 1)) (byteAt f (i + 2)) (byteAt f (i + 3))

/-- Bytes `i` .. `i+5` of a frame as an Ethernet address. -/
def macAt (f : Frame) (i : Nat) : Mac := word16At f i ++ word32At f (i + 2)

/-- One's-complement addition of 16-bit words with end-around carry (44 R313). -/
def onesAdd (a b : Nat) : Nat := if a + b < 65536 then a + b else a + b - 65535

/-- The one's-complement sum of a byte string's 16-bit big-endian words, an odd last byte padded with a
zero byte, added to `acc` (44 R313). -/
def onesSum : Nat → List Byte → Nat
  | acc, [] => acc
  | acc, [b] => onesAdd acc (b.toNat * 256)
  | acc, b :: c :: t => onesSum (onesAdd acc (b.toNat * 256 + c.toNat)) t

/-- The checksum field: the complement of the sum (44 R313). -/
def checksum (l : List Byte) : Word16 := BitVec.ofNat 16 (65535 - onesSum 0 l)

end Sys2Proof.Machine
end

