-- ==== Sys2Proof/Machine/Memory.lean ====
section
/-! DEFINITION. Byte memories in canonical form: reading, writing, the check of the form, and what an unlisted address of each memory reads as. -/

namespace Sys2Proof.Machine

/-- The byte at `a`: its cell, or what an unlisted address reads as (`dflt`). -/
def Memory.read (dflt : Nat → Byte) : Memory → Nat → Byte
  | [], a => dflt a
  | (k, v) :: m, a => if a = k then v else Memory.read dflt m a

/-- The cells without those at `a`. -/
def Memory.erase : Memory → Nat → Memory
  | [], _ => []
  | (k, v) :: m, a => if a = k then Memory.erase m a else (k, v) :: Memory.erase m a

/-- A cell put in its place by address. -/
def Memory.insert : Memory → Nat → Byte → Memory
  | [], a, v => [(a, v)]
  | (k, w) :: m, a, v => if a < k then (a, v) :: (k, w) :: m else (k, w) :: Memory.insert m a v

/-- The memory with `v` at `a`: no cell where `v` is what the address reads as unlisted. -/
def Memory.write (dflt : Nat → Byte) (m : Memory) (a : Nat) (v : Byte) : Memory :=
  if v = dflt a then m.erase a else (m.erase a).insert a v

/-- Every address of the memory is at least `lo`, they rise strictly, they are below `size`, and no
cell holds what its address reads as unlisted. -/
def Memory.wfFrom (dflt : Nat → Byte) (size : Nat) : Nat → Memory → Bool
  | _, [] => true
  | lo, (k, v) :: m => decide (lo ≤ k) && decide (k < size) && decide (v ≠ dflt k)
      && Memory.wfFrom dflt size (k + 1) m

/-- The canonical form of a memory of `size` bytes. -/
def Memory.wf (dflt : Nat → Byte) (size : Nat) (m : Memory) : Bool := Memory.wfFrom dflt size 0 m

/-! ## What an unlisted address reads as -/

/-- The bytes that step (c) of the reset procedure seeds in the common registers (70 R390). -/
def commonSeeds : List Host.Cell :=
  [(0x0001, 0xC0), (0x0002, 0xA8), (0x0003, 0x01), (0x0004, 0x01),
   (0x0005, 0xFF), (0x0006, 0xFF), (0x0007, 0xFF), (0x0008, 0x00),
   (0x0009, 0x02), (0x000A, 0x00), (0x000B, 0xDE), (0x000C, 0xAD), (0x000D, 0xBE), (0x000E, 0xEF),
   (0x000F, 0xC0), (0x0010, 0xA8), (0x0011, 0x01), (0x0012, 0x64),
   (0x0017, 0x07), (0x0018, 0xD0), (0x0019, 0x08), (0x001A, 0x55), (0x001B, 0x55)]

/-- The byte of a list of seeds at an address, 0 where there is none. -/
def seedAt : List Host.Cell → Nat → Byte
  | [], _ => 0
  | (k, v) :: t, a => if a = k then v else seedAt t a

/-- The image after reset (10 R75, 70 R390 (b), (c), (d)): zero but for the seeds, that is the common
registers and, in each socket page, the high bytes of Sn_TX_RD, Sn_TX_WR (0x40 + 8n) and Sn_RX_RD
(0x60 + 8n), whose low bytes are 0. -/
def imageDefault (a : Nat) : Byte :=
  if a < 0x400 then seedAt commonSeeds a
  else if a / 0x400 = 1 then
    if a % 0x100 = 0x22 ∨ a % 0x100 = 0x24 then BitVec.ofNat 8 (0x40 + 8 * (a / 0x100 % 4))
    else if a % 0x100 = 0x28 then BitVec.ofNat 8 (0x60 + 8 * (a / 0x100 % 4))
    else 0
  else 0

/-- The staging buffer after reset: all zero (10 R75). -/
def stagingDefault (_ : Nat) : Byte := 0

/-- The fallback ROM image of the mouse card (43 R284). -/
def fallbackRom (i : Nat) : Byte :=
  seedAt [(0x005, 0x38), (0x007, 0x18), (0x00B, 0x01), (0x00C, 0x20),
    (0x012, 0x60), (0x013, 0x60), (0x014, 0x60), (0x015, 0x60), (0x016, 0x60), (0x017, 0x60),
    (0x018, 0x60), (0x019, 0x60), (0x01C, 0x60), (0x0FB, 0xD6)] i

end Sys2Proof.Machine
end

