-- ==== Sys2Proof/Machine/Operands.lean ====
section
/-! DEFINITION. Where operands stand: socket pages, rings and windows of the image, staging indexes, the ROM page of the mouse card, protocol selection by Sn_MR. -/

namespace Sys2Proof.Machine

/-- `S(n)`: the base of socket `n`'s register page (00 R10). -/
def sockBase (n : SockId) : Nat := 0x400 + 0x100 * n.val

/-- `Sn_MR` (10 R43). -/
def snMr (n : SockId) : Nat := sockBase n
/-- `Sn_CR` (10 R44). -/
def snCr (n : SockId) : Nat := sockBase n + 0x01
/-- `Sn_SR` (10 R46). -/
def snSr (n : SockId) : Nat := sockBase n + 0x03
/-- `Sn_PORT` (10 R47). -/
def snPort (n : SockId) : Nat := sockBase n + 0x04
/-- `Sn_DIPR` (10 R49). -/
def snDipr (n : SockId) : Nat := sockBase n + 0x0C
/-- `Sn_DPORT` (10 R50). -/
def snDport (n : SockId) : Nat := sockBase n + 0x10
/-- `Sn_TX_RD` (10 R53). -/
def snTxRd (n : SockId) : Nat := sockBase n + 0x22
/-- `Sn_TX_WR` (10 R54). -/
def snTxWr (n : SockId) : Nat := sockBase n + 0x24
/-- `Sn_RX_RD` (10 R56). -/
def snRxRd (n : SockId) : Nat := sockBase n + 0x28

/-- `tx_base(n)` (00 R10). -/
def txBase (n : SockId) : Nat := 0x4000 + 2048 * n.val

/-- `rx_base(n)` (00 R10). -/
def rxBase (n : SockId) : Nat := 0x6000 + 2048 * n.val

/-- `(a - b) mod 2048` of two 16-bit pointers (20 R112 (b)). -/
def ringDiff (a b : Word16) : Nat := (a - b).toNat % 2048

/-- `(tail - head) mod 2048` of two staging positions (10 R55, R63), for any two naturals (log 25). -/
def ringFill (head tail : Nat) : Nat := (((tail : Int) - (head : Int)) % 2048).toNat

/-- The index into MOUSE_ROM that the window offset `ploc` shows: the page is ORB bits 2..0, whatever
DDRB and CRB hold (43 R271, R282). -/
def romIndex (orb ploc : Byte) : Nat := (orb &&& 0x07).toNat * 256 + ploc.toNat

/-- Redirect rule (41 R214): destinations in 192.168.64 and 192.168.65 are 127.0.0.1. -/
def redirect (ip : Ip) : Ip :=
  if ip.extractLsb' 8 24 = 0xC0A840 ∨ ip.extractLsb' 8 24 = 0xC0A841 then 0x7F000001 else ip

/-- What OPEN opens on socket `n` when `Sn_MR` holds `mr` (41 R200, 30 R141). -/
def openKindOf (p : Params) (n : SockId) (mr : Byte) : OpenKind :=
  if mr &&& p.mrMask = 0x01 then .tcp
  else if mr &&& p.mrMask = p.mrUdp then .udp
  else if mr &&& p.mrMask = p.mrMacraw ∧ n = 0 then .macraw
  else .other

end Sys2Proof.Machine
end

