-- ==== Sys2Proof/Machine/Ops.lean ====
section
/-! DEFINITION. The named operations over the state: the image, the sockets, the draws of the oracles, release, reset, the mode register, the pointer's post-increment, injection into a staging buffer. The block takes no exception and returns from none (60 R360, R369), so there is no exception operation. -/

namespace Sys2Proof.Machine

/-! ## The image -/

/-- `mem[a]` read with no side effect (00 R10). -/
def State.peek (s : State) (a : Nat) : Byte := s.mem.read imageDefault a

/-- `mem[a] <- v` with no side effect (00 R10). -/
def State.poke (s : State) (a : Nat) (v : Byte) : State := { s with mem := s.mem.write imageDefault a v }

/-- `get16(a)` (00 R10, 30 R126). -/
def State.get16 (s : State) (a : Nat) : Word16 := word16 (s.peek a) (s.peek (a + 1))

/-- `put16(a, v)` (00 R10). -/
def State.put16 (s : State) (a : Nat) (v : Word16) : State :=
  (s.poke a (hiByte v)).poke (a + 1) (loByte v)

/-- Four octets stored first octet first (20 R91). -/
def State.putIp (s : State) (a : Nat) (ip : Ip) : State :=
  (((s.poke a (ip.extractLsb' 24 8)).poke (a + 1) (ip.extractLsb' 16 8)).poke (a + 2)
    (ip.extractLsb' 8 8)).poke (a + 3) (ip.extractLsb' 0 8)

/-- Four octets read first octet first (20 R91). -/
def State.getIp (s : State) (a : Nat) : Ip :=
  ipOf (s.peek a) (s.peek (a + 1)) (s.peek (a + 2)) (s.peek (a + 3))

/-! ## The sockets -/

/-- Socket `n`'s extension state. -/
def Sockets.get (k : Sockets) : SockId → Sock
  | 0 => k.s0
  | 1 => k.s1
  | 2 => k.s2
  | 3 => k.s3

/-- The sockets with socket `n`'s extension state replaced. -/
def Sockets.set (k : Sockets) (n : SockId) (x : Sock) : Sockets :=
  match n with
  | 0 => { k with s0 := x }
  | 1 => { k with s1 := x }
  | 2 => { k with s2 := x }
  | 3 => { k with s3 := x }

/-- `sock[n]`. -/
def State.sock (s : State) (n : SockId) : Sock := s.socks.get n

/-- `sock[n] <- x`. -/
def State.setSock (s : State) (n : SockId) (x : Sock) : State := { s with socks := s.socks.set n x }

/-- `SR(n)`, the status byte (41, notation). -/
def State.status (s : State) (n : SockId) : Byte := s.peek (snSr n)

/-- `SR(n) <- v`. -/
def State.setStatus (s : State) (n : SockId) (v : Byte) : State := s.poke (snSr n) v

/-- `sock[n].handle <- h`. -/
def State.setHandle (s : State) (n : SockId) (h : Option Handle) : State :=
  s.setSock n { s.sock n with handle := h }

/-- `sock[n].connecting <- b`. -/
def State.setConnecting (s : State) (n : SockId) (b : Bool) : State :=
  s.setSock n { s.sock n with connecting := b }

/-- `sock[n].macraw <- b`. -/
def State.setMacraw (s : State) (n : SockId) (b : Bool) : State :=
  s.setSock n { s.sock n with macraw := b }

/-- `sock[n].rx_head <- h ; sock[n].rx_tail <- t`. -/
def State.setFill (s : State) (n : SockId) (h t : Nat) : State :=
  s.setSock n { s.sock n with rxHead := h, rxTail := t }

/-- The handles of the four sockets. -/
def Sockets.handles (k : Sockets) : List Handle :=
  k.s0.handle.toList ++ k.s1.handle.toList ++ k.s2.handle.toList ++ k.s3.handle.toList

/-- Every live handle (42 R260). -/
def State.liveHandles (s : State) : List Handle := s.venv.handle.toList ++ s.socks.handles

/-! ## The environment -/

/-- A call on the environment, recorded (log 13). -/
def State.logCall (s : State) (c : EnvCall) : State := { s with envLog := c :: s.envLog }

/-- The next answer of the `Host` oracle: the script's, or one of which nothing is known (42 R260; log
7). -/
def State.nextAnswer (s : State) : HostAnswer × State :=
  match s.hostScript with
  | a :: rest => (a, { s with hostScript := rest, hostDraws := s.hostDraws + 1 })
  | [] => (Config.hostAnswer s.hostDraws, { s with hostDraws := s.hostDraws + 1 })

/-- A call of the `Host` oracle and its answer. -/
def State.ask (s : State) (c : EnvCall) : HostAnswer × State := (s.logCall c).nextAnswer

/-- The next answer of the `VNet` oracle: the script's, or the responders of file 44 under choices of
which nothing is known (42 R264, 44 R310; log 10). -/
def State.nextVNet (s : State) : VNetAnswer × State :=
  match s.vnetScript with
  | a :: rest => (a, { s with vnetScript := rest, vnetDraws := s.vnetDraws + 1 })
  | [] => (.responder (Config.vnetChoices s.vnetDraws), { s with vnetDraws := s.vnetDraws + 1 })

/-- `Host.close(h)`, never called for a reserved standard stream (41 R216, D36). -/
def State.hostClose (s : State) (h : Handle) : State := if 3 ≤ h then s.logCall (.close h) else s

/-- `release(n)` (41 R216). -/
def State.release (s : State) (n : SockId) : State :=
  let s1 :=
    match (s.sock n).handle with
    | some h => s.hostClose h
    | none => s
  s1.setSock n { s.sock n with handle := none, connecting := false }

/-- The virtual flow dropped, its host handle closed (70 R390 (a), 44 R331). -/
def State.dropFlow (s : State) : State :=
  let s1 :=
    match s.venv.handle with
    | some h => s.hostClose h
    | none => s
  { s1 with venv := { s1.venv with vtcp := none } }

/-! ## Reset and the mode register -/

/-- `w5100_reset()` caused by a mode write (70 R390): every handle released, the image and all that
stands behind it as after power-on (10 R75), `addr_ptr` any value (93 U1; log 6). The mouse card is not
touched (70 R392). -/
def State.w5100Reset (s : State) : State :=
  let s1 := ((((s.release 0).release 1).release 2).release 3).dropFlow
  { s1 with
    mem := []
    socks := ⟨Sock.reset, Sock.reset, Sock.reset, Sock.reset⟩
    venv := { dhcpState := .idle, dhcpXid := 0, clientMac := 0, vtcp := none }
    addrPtr := Config.addrPtrAfterReset s.resets
    resets := s.resets + 1 }

/-- A write of `v` to the mode register, from either path: the reset first if bit 7 is set, then the
store with bit 7 cleared (40 R162, R182, D10). -/
def State.writeMode (s : State) (v : Byte) : State :=
  (if v &&& 0x80 ≠ 0 then s.w5100Reset else s).poke 0 (v &&& 0x7F)

/-- `post_increment()`: decided by the mode byte as it is now; modulo 0x8000 from any value (40 R169).
-/
def State.postIncrement (s : State) : State :=
  if s.peek 0 &&& 0x02 ≠ 0 then
    { s with addrPtr := BitVec.ofNat 16 ((s.addrPtr.toNat + 1) % 0x8000) }
  else s

/-- A byte handed to the CPU (30 R120: "The handler's return is the byte delivered to the CPU on
reads"). -/
def State.deliver (s : State) (b : Byte) : State := { s with delivered := some b }

/-! ## The staging buffers -/

/-- The bytes stored from index `t` on, with no wrap (42 R265). -/
def stageLinear (m : Memory) (t : Nat) : List Byte → Memory
  | [] => m
  | b :: bs => stageLinear (m.write stagingDefault t b) (t + 1) bs

/-- The bytes stored from index `t` on, modulo 2048 (42 R243). -/
def stageRing (m : Memory) (t : Nat) : List Byte → Memory
  | [] => m
  | b :: bs => stageRing (m.write stagingDefault (t % 2048) b) (t + 1) bs

/-- A frame with its length prefix, which counts itself (20 R92, 30 R144). -/
def framed (f : Frame) : List Byte := be16 (BitVec.ofNat 16 (f.length + 2)) ++ f

/-- `rx_inject(n, F)` (42 R265): appended at the tail, or dropped whole if it does not fit. -/
def State.rxInject (s : State) (n : SockId) (f : Frame) : State :=
  let k := s.sock n
  if k.rxTail + f.length + 2 > 4096 then s
  else s.setSock n { k with
    staging := stageLinear k.staging k.rxTail (framed f), rxTail := k.rxTail + f.length + 2 }

/-- A list of frames injected in order (41 R209, 42 R247). -/
def State.rxInjectAll (s : State) (n : SockId) : List Frame → State
  | [] => s
  | f :: fs => (s.rxInject n f).rxInjectAll n fs

/-- The staging byte that the RX window shows at offset `i` (40 R174). -/
def State.window (s : State) (n : SockId) (i : Nat) : Byte :=
  (s.sock n).staging.read stagingDefault (i % 2048)

end Sys2Proof.Machine
end

