-- ==== Sys2Proof/Machine/Flags.lean ====
section
/-! DEFINITION. Status, mode and control bits, and the computed registers: status codes, auto-increment, the PIA's data-register select, Sn_TX_FSR, Sn_RX_RSR, the transmit length. -/

namespace Sys2Proof.Machine

/-! ## Status codes (30 R143) -/

def srClosed : Byte := 0x00
def srInit : Byte := 0x13
def srListen : Byte := 0x14
def srSynsent : Byte := 0x15
def srEstablished : Byte := 0x17
def srCloseWait : Byte := 0x1C
def srUdp : Byte := 0x22
def srMacraw : Byte := 0x42

/-! ## Control bits -/

/-- Mode bit AI (10 R22). -/
def State.autoInc (s : State) : Bool := s.peek 0 &&& 0x02 != 0

/-- A PIA control register's bit 2: the paired data offset addresses the output register (10 R69). -/
def dataSelected (cr : Byte) : Bool := cr &&& 0x04 != 0

/-- The conditions that choose between rows of the table with one encoding, for socket `n`. -/
def State.cond (s : State) (n : SockId) : Cond :=
  { rsMap := s.params.rsMap
    dataA := dataSelected s.pia.cra
    dataB := dataSelected s.pia.crb
    openKind := openKindOf s.params n (s.peek (snMr n))
    statusMacraw := s.status n == srMacraw }

/-! ## Computed registers (40 R173, 41 R216) -/

/-- `tx_len(n)` (41 R216). -/
def State.txLen (s : State) (n : SockId) : Nat := ringDiff (s.get16 (snTxWr n)) (s.get16 (snTxRd n))

/-- `tx_byte(n, i)` (41 R216). -/
def State.txByte (s : State) (n : SockId) (i : Nat) : Byte :=
  s.peek (txBase n + ((s.get16 (snTxRd n)).toNat + i) % 2048)

/-- The bytes between Sn_TX_RD and Sn_TX_WR in the ring (41 R208, R209). -/
def State.txData (s : State) (n : SockId) : List Byte := (List.range (s.txLen n)).map (s.txByte n)

/-- `fsr(n)` (40 R173, 10 R52). -/
def State.fsr (s : State) (n : SockId) : Word16 := BitVec.ofNat 16 (2048 - s.txLen n)

/-- `rsr(n)` (40 R173, 10 R55); no value on a MACRAW socket whose tail is below its head (93 U14). -/
def Sock.rsr (k : Sock) : Option Nat :=
  if k.macraw then (if k.rxHead ≤ k.rxTail then some (k.rxTail - k.rxHead) else none)
  else some (ringFill k.rxHead k.rxTail)

/-- The byte of a 16-bit register at its even (high) or odd (low) address (20 R90). -/
def regByte (v : Word16) (low : Bool) : Byte := if low then loByte v else hiByte v

/-! ## The quadrature byte (43 R276, 30 R152) -/

/-- One axis of the quadrature read: whether the tick bit and the direction bit are set, the delta one
unit nearer to zero, and the phase. -/
def quadAxis (d : Int) (phase : Bool) : Bool × Bool × Int × Bool :=
  if d = 0 then (false, false, d, phase)
  else if 0 < d then (!phase, true, d - 1, !phase)
  else (!phase, false, d + 1, !phase)

/-- A bit of weight `w`, or 0. -/
def bitIf (b : Bool) (w : Byte) : Byte := if b then w else 0

/-- The byte read from ORA (43 R276). -/
def Mouse.oraByte (m : Mouse) : Byte :=
  let x := quadAxis m.dx m.xphase
  let y := quadAxis m.dy m.yphase
  bitIf x.1 0x01 ||| bitIf x.2.1 0x02 ||| bitIf y.2.1 0x04 ||| bitIf y.1 0x08 ||| bitIf (!m.button) 0x80

/-- The motion state after a read of ORA (43 R276). -/
def Mouse.afterOra (m : Mouse) : Mouse :=
  let x := quadAxis m.dx m.xphase
  let y := quadAxis m.dy m.yphase
  { m with dx := x.2.2.1, xphase := x.2.2.2, dy := y.2.2.1, yphase := y.2.2.2 }

end Sys2Proof.Machine
end

