-- ==== Sys2Proof/Machine/Calls.lean ====
section
/-! DEFINITION. The calls of the rest of the emulator: slots, mouse position, button, state (43 R290 to R293). -/

namespace Sys2Proof.Machine

/-- The slot parameter of the other card (00 R8). -/
def otherSlot (p : Params) : Card → Option Nat
  | .uthernet2 => p.mouseSlot
  | .mouse => p.u2Slot

/-- The parameters with a card's slot set (00 R8). -/
def withSlot (p : Params) (card : Card) (k : Nat) : Params :=
  match card with
  | .uthernet2 => { p with u2Slot := some k }
  | .mouse => { p with mouseSlot := some k }

/-- The state with a card's slot parameter set. -/
def State.storeSlot (s : State) (card : Card) (k : Nat) : State :=
  { s with params := withSlot s.params card k }

/-- A slot call: it sets the card's slot parameter (00 R8) and tells the dispatcher; no state of the block
changes (43 R290). Refused outside 1..7 and after emulation has started (93 U12), and where the other card
has the slot, the two being distinct (D38; log 22). -/
def State.setSlot (s : State) (card : Card) (slot : Int) : Except Refusal State :=
  if slot < 1 ∨ 7 < slot then .error .slotOutOfRange
  else if s.started then .error .slotAfterStart
  else if otherSlot s.params card = some slot.toNat then .error .slotTaken
  else .ok ((s.storeSlot card slot.toNat).logCall (.slot card slot))

/-- The outcome of a slot call. -/
def slotOutcome : Except Refusal State → Result
  | .ok s => .next s
  | .error r => .refused r

/-- U2.SET_SLOT (43 R290). -/
def execU2SetSlot (slot : Int) (s : State) : Result := slotOutcome (s.setSlot .uthernet2 slot)

/-- MOUSE.SET_SLOT (43 R290). -/
def execMouseSetSlot (slot : Int) (s : State) : Result := slotOutcome (s.setSlot .mouse slot)

/-- MOUSE.SET_POSITION (43 R291). -/
def execMouseSetPosition (x y : Int) (s : State) : Result :=
  .next { s with mouse := { s.mouse with
    dx := s.mouse.dx + (x - s.mouse.x), x := x, dy := s.mouse.dy + (y - s.mouse.y), y := y } }

/-- MOUSE.SET_BUTTON (43 R292). -/
def execMouseSetButton (pressed : Bool) (s : State) : Result :=
  .next { s with mouse := { s.mouse with button := pressed } }

/-- MOUSE.GET_STATE (43 R293). -/
def execMouseGetState (s : State) : Result :=
  .next { s with report := some { x := s.mouse.x, y := s.mouse.y, button := s.mouse.button } }

end Sys2Proof.Machine
end

