-- ==== Sys2Proof/Machine/PiaMouse.lean ====
section
/-! DEFINITION. The bus operations of the AppleMouse card: the meanings of the PIA family (file 43). -/

namespace Sys2Proof.Machine

/-- `MOUSE_ROM[i]` (10 R71). -/
def State.romByte (s : State) (i : Nat) : Byte := s.mouseRom.read fallbackRom i

/-- PIA.RD_ROM (43 R271, R282). -/
def execPiaRdRom (ploc : Byte) (s : State) : Result :=
  .next (s.deliver (s.romByte (romIndex s.pia.orb ploc)))

/-- PIA.WR_ROM: nothing (43 R272). -/
def execPiaWrRom (_ _ : Byte) (s : State) : Result := .next s

/-- PIA.RD_ORA (43 R276): the quadrature byte, one unit of each moving axis consumed. -/
def execPiaRdOra (s : State) : Result :=
  .next ({ s with mouse := s.mouse.afterOra }.deliver s.mouse.oraByte)

/-- PIA.WR_ORA (43 R275). -/
def execPiaWrOra (v : Byte) (s : State) : Result := .next { s with pia := { s.pia with ora := v } }

/-- PIA.RD_DDRA (43 R273). -/
def execPiaRdDdra (s : State) : Result := .next (s.deliver s.pia.ddra)

/-- PIA.WR_DDRA (43 R274). -/
def execPiaWrDdra (v : Byte) (s : State) : Result := .next { s with pia := { s.pia with ddra := v } }

/-- PIA.RD_CRA (43 R277). -/
def execPiaRdCra (s : State) : Result := .next (s.deliver s.pia.cra)

/-- PIA.WR_CRA (43 R278): bits 7..6 are not writable. -/
def execPiaWrCra (v : Byte) (s : State) : Result :=
  .next { s with pia := { s.pia with cra := v &&& 0x3F } }

/-- PIA.RD_ORB (43 R280). -/
def execPiaRdOrb (s : State) : Result := .next (s.deliver s.pia.orb)

/-- PIA.WR_ORB (43 R279): the ROM-bank selector. -/
def execPiaWrOrb (v : Byte) (s : State) : Result := .next { s with pia := { s.pia with orb := v } }

/-- PIA.RD_DDRB (43 R285). -/
def execPiaRdDdrb (s : State) : Result := .next (s.deliver s.pia.ddrb)

/-- PIA.WR_DDRB (43 R287). -/
def execPiaWrDdrb (v : Byte) (s : State) : Result := .next { s with pia := { s.pia with ddrb := v } }

/-- PIA.RD_CRB (43 R283). -/
def execPiaRdCrb (s : State) : Result := .next (s.deliver s.pia.crb)

/-- PIA.WR_CRB (43 R281): bits 7..6 are not writable. -/
def execPiaWrCrb (v : Byte) (s : State) : Result :=
  .next { s with pia := { s.pia with crb := v &&& 0x3F } }

/-- PIA.RD_UNASSIGNED, soft switches 4..7 (43 R286). -/
def execPiaRdUnassignedLow (_ : BitVec 2) (s : State) : Result := .next (s.deliver 0)

/-- PIA.RD_UNASSIGNED, soft switches 8..15 (43 R286). -/
def execPiaRdUnassignedHigh (_ : BitVec 3) (s : State) : Result := .next (s.deliver 0)

/-- PIA.WR_UNASSIGNED, soft switches 4..7: nothing (43 R286). -/
def execPiaWrUnassignedLow (_ : BitVec 2) (_ : Byte) (s : State) : Result := .next s

/-- PIA.WR_UNASSIGNED, soft switches 8..15: nothing (43 R286). -/
def execPiaWrUnassignedHigh (_ : BitVec 3) (_ : Byte) (s : State) : Result := .next s

end Sys2Proof.Machine
end

