-- ==== Sys2Proof/Machine/NetFrames.lean ====
section
/-! DEFINITION. The frames of the virtual network layer: the reply frames it builds and the fields it reads (file 44). -/

namespace Sys2Proof.Machine

/-! ## Constants (44 R311) -/

/-- `VN_CLIENT_IP`, 192.168.65.100. -/
def vnClientIp : Ip := 0xC0A84164
/-- `VN_GW_IP`, 192.168.65.1: server, gateway, router, server id. -/
def vnGwIp : Ip := 0xC0A84101
/-- `VN_MASK`, 255.255.255.0. -/
def vnMask : Ip := 0xFFFFFF00
/-- `VN_DNS`, 8.8.8.8. -/
def vnDns : Ip := 0x08080808
/-- `VN_GW_MAC`. -/
def vnGwMac : Mac := 0x0200DEADBE01
/-- `VN_SRV_MAC`. -/
def vnSrvMac : Mac := 0x020000000001
/-- `VN_LEASE`, 86400 seconds. -/
def vnLease : BitVec 32 := 86400
/-- `VN_ISS`, the initial `our_seq`. -/
def vnIss : BitVec 32 := 12345
/-- `VN_WINDOW`. -/
def vnWindow : Word16 := 0x2000
/-- `VN_MSS_CHUNK`, bytes of payload per PSH+ACK segment. -/
def vnMssChunk : Nat := 1400
/-- `VN_TTL`. -/
def vnTtl : Byte := 64
/-- The Ethernet broadcast address. -/
def bcastMac : Mac := 0xFFFFFFFFFFFF
/-- The IPv4 broadcast address. -/
def bcastIp : Ip := 0xFFFFFFFF

/-! ## Building -/

/-- An Ethernet II header: destination, source, type (30 R144). -/
def ethHeader (dst src : Mac) (etherType : Word16) : List Byte :=
  macBytes dst ++ macBytes src ++ be16 etherType

/-- The bytes of a reply's IPv4 header before and after its checksum field (44 R314). -/
def ipHead (o : ReplyOpen) (proto : Byte) (total : Nat) : List Byte :=
  [0x45, o.tos] ++ be16 (BitVec.ofNat 16 total) ++ be16 o.ident ++ be16 (o.flags ++ (0 : BitVec 14))
    ++ [vnTtl, proto]

/-- The IPv4 header of a reply, 20 bytes, its checksum as 44 R313 (44 R314). -/
def ipHeader (o : ReplyOpen) (proto : Byte) (src dst : Ip) (total : Nat) : List Byte :=
  ipHead o proto total
    ++ be16 (checksum (ipHead o proto total ++ zeros 2 ++ be32 src ++ be32 dst))
    ++ be32 src ++ be32 dst

/-- The ARP reply to the request `f` (44 R317). -/
def arpReply (f : Frame) : Frame :=
  ethHeader (macAt f 22) vnGwMac 0x0806 ++ be16 0x0001 ++ be16 0x0800 ++ [0x06, 0x04] ++ be16 0x0002
    ++ macBytes vnGwMac ++ be32 vnGwIp ++ macBytes (macAt f 22) ++ be32 (word32At f 28)

/-- The 240 fixed bytes of a DHCP reply (44 R323). -/
def dhcpFixed (c : VNetChoices) (v : VEnv) : List Byte :=
  [0x02, 0x01, 0x06, 0x00] ++ be32 v.dhcpXid ++ be16 c.bootpSecs ++ be16 c.bootpFlags
    ++ be32 c.bootpCiaddr ++ be32 vnClientIp ++ be32 vnGwIp ++ be32 c.bootpGiaddr
    ++ macBytes v.clientMac ++ zeros 10 ++ zeros 64 ++ zeros 128 ++ [0x63, 0x82, 0x53, 0x63]

/-- The options of a DHCP reply of type `t`, in BOBBIN's order (44 R323). -/
def dhcpOptions (t : Byte) : List Byte :=
  [0x35, 0x01, t] ++ [0x36, 0x04] ++ be32 vnGwIp ++ [0x33, 0x04] ++ be32 vnLease ++ [0x01, 0x04]
    ++ be32 vnMask ++ [0x03, 0x04] ++ be32 vnGwIp ++ [0x06, 0x04] ++ be32 vnDns ++ [0xFF]

/-- The DHCP payload: padded with zeros to 300 bytes, and by what the choices add, as far as the
16-bit length fields of IPv4 reach (44 R323). -/
def dhcpPayload (c : VNetChoices) (v : VEnv) (t : Byte) : List Byte :=
  dhcpFixed c v ++ dhcpOptions t ++ zeros (26 + min c.dhcpExtraPad 65207)

/-- A DHCP reply of type `t` to the IPv4 destination `dst` (44 R323, R324). -/
def dhcpReply (c : VNetChoices) (v : VEnv) (t : Byte) (dst : Ip) : Frame :=
  ethHeader bcastMac vnSrvMac 0x0800
    ++ ipHeader (c.replies.getD 0 default) 17 c.dhcpSrcIp dst (28 + (dhcpPayload c v t).length)
    ++ be16 67 ++ be16 68 ++ be16 (BitVec.ofNat 16 (8 + (dhcpPayload c v t).length))
    ++ be16 c.udpChecksum ++ dhcpPayload c v t

/-- The bytes of a TCP header before its checksum field (44 R330, R338). -/
def tcpHead (v : VTcp) (flags : Byte) : List Byte :=
  be16 v.localPort ++ be16 v.remotePort ++ be32 v.ourSeq ++ be32 v.theirSeq ++ [0x50, flags]
    ++ be16 vnWindow

/-- The pseudo-header of the TCP checksum (44 R313). -/
def tcpPseudo (v : VTcp) (len : Nat) : List Byte :=
  be32 v.dialedIp ++ be32 v.remoteIp ++ [0x00, 0x06] ++ be16 (BitVec.ofNat 16 (20 + len))

/-- The TCP header with its checksum, and the payload (44 R338). -/
def tcpBody (v : VTcp) (flags : Byte) (payload : List Byte) : List Byte :=
  tcpHead v flags
    ++ be16 (checksum (tcpPseudo v payload.length ++ tcpHead v flags ++ zeros 4 ++ payload))
    ++ zeros 2 ++ payload

/-- A segment of the virtual TCP responder (44 R338). -/
def tcpSegment (o : ReplyOpen) (v : VTcp) (flags : Byte) (payload : List Byte) : Frame :=
  ethHeader v.remoteMac o.ethSrc 0x0800
    ++ ipHeader o 6 v.dialedIp v.remoteIp (40 + payload.length) ++ tcpBody v flags payload

/-! ## Reading -/

/-- The EtherType of a frame (44 R312). -/
def etherType (f : Frame) : Word16 := word16At f 12

/-- The IPv4 protocol of a frame (44 R312). -/
def ipProto (f : Frame) : Byte := byteAt f 23

/-- The IPv4 total length of a frame (44 R314). -/
def ipTotal (f : Frame) : Nat := (word16At f 16).toNat

/-- The length of the IPv4 header that the responders go by; `none` for a malformed header, and where
the choices drop a header with options (44 R321, R350; log 11, 12). DESIGN CHOICE: a total length that runs
beyond the frame, or is shorter than the header, is malformed (44 R312, 60 R366; log 36), and an incoming
header checksum is not checked (log 33): unsafe. -/
def ipHeaderLen (c : VNetChoices) (f : Frame) : Option Nat :=
  let ihl := (byteAt f 14).toNat % 16 * 4
  if f.length < 34 ∨ (byteAt f 14).toNat / 16 ≠ 4 ∨ ihl < 20 then none
  else if ipTotal f < ihl ∨ f.length < 14 + ipTotal f then none
  else if ihl = 20 then some 20
  else
    match c.ipOptions with
    | .drop => none
    | .honour => some ihl
    | .ignore => some 20

/-- The value of option 53 in a DHCP option list (44 R321), over at most `fuel` options. DESIGN CHOICE: the
first option 53 decides, its first value byte is the type whatever length of 1 or more it announces, also one
that runs past the list, and with no value byte there is no type (60 R366; log 37): unsafe. -/
def dhcpType : Nat → List Byte → Option Byte
  | 0, _ => none
  | _ + 1, [] => none
  | _ + 1, [_] => none
  | fuel + 1, code :: len :: t =>
    if code = 0 then dhcpType fuel (len :: t)
    else if code = 255 then none
    else if code = 53 then (if len = 0 then none else t.head?)
    else dhcpType fuel (t.drop len.toNat)

/-- A DHCP message found in a frame: where the DHCP payload starts, and its message type (44 R321).
DESIGN CHOICE: a UDP length that runs beyond the IPv4 datagram, or is shorter than the 240 fixed bytes, is
malformed, and the options end with the UDP payload (44 R312; log 36); an incoming UDP checksum is not
checked (log 33): unsafe. -/
def dhcpMessage (c : VNetChoices) (f : Frame) : Option (Nat × Byte) :=
  match ipHeaderLen c f with
  | none => none
  | some hl =>
    let u := 14 + hl
    let d := u + 8
    let len := (word16At f (u + 4)).toNat
    if len < 248 ∨ ipTotal f < hl + len then none
    else if word16At f u = 68 ∧ word16At f (u + 2) = 67 ∧ word32At f (d + 236) = 0x63825363 then
      match dhcpType len ((f.drop (d + 240)).take (len - 248)) with
      | some t => some (d, t)
      | none => none
    else none

/-- The fields of an incoming TCP segment (44 R330). -/
structure Segment where
  srcMac : Mac
  srcIp : Ip
  dstIp : Ip
  srcPort : Word16
  dstPort : Word16
  seq : BitVec 32
  flags : Byte
  hasOptions : Bool
  payload : List Byte
deriving DecidableEq, Repr

/-- A flag of a segment (44 R330: FIN 0x01, SYN 0x02, RST 0x04, ACK 0x10). -/
def Segment.has (g : Segment) (flag : Byte) : Bool := g.flags &&& flag != 0

/-- The TCP segment of a frame, `none` if the frame is malformed (44 R312, R330: the payload length is
the IP total length less the two header lengths). DESIGN CHOICE: lengths that do not fit each other are
malformed (log 12, 36), and an incoming TCP checksum is not checked (log 33): unsafe. -/
def tcpSegmentOf (c : VNetChoices) (f : Frame) : Option Segment :=
  match ipHeaderLen c f with
  | none => none
  | some hl =>
    let t := 14 + hl
    let doff := (byteAt f (t + 12)).toNat / 16 * 4
    if doff < 20 ∨ ipTotal f < hl + doff then none
    else some
      { srcMac := macAt f 6, srcIp := word32At f 26, dstIp := word32At f 30
        srcPort := word16At f t, dstPort := word16At f (t + 2), seq := word32At f (t + 4)
        flags := byteAt f (t + 13), hasOptions := decide (20 < doff)
        payload := (f.drop (t + doff)).take (ipTotal f - hl - doff) }

/-- A byte string cut into pieces of `VN_MSS_CHUNK` bytes, the last one shorter (44 R333), at most
`fuel` of them. -/
def chunksOf : Nat → List Byte → List (List Byte)
  | 0, _ => []
  | _ + 1, [] => []
  | fuel + 1, b :: t => (b :: t).take vnMssChunk :: chunksOf fuel ((b :: t).drop vnMssChunk)

/-- The pieces of a byte string (44 R333). -/
def chunks (l : List Byte) : List (List Byte) := chunksOf l.length l

end Sys2Proof.Machine
end

