-- ==== Sys2Proof/Machine/Vnet.lean ====
section
/-! DEFINITION. The virtual network layer: the ARP, DHCP and TCP responders of file 44 and the two entry points of the `VNet` oracle (42 R264). -/

namespace Sys2Proof.Machine

/-! ## ARP and DHCP -/

/-- The ARP responder: the gateway answers, nothing else (44 R316, R317). -/
def arpRespond (f : Frame) : List Frame :=
  if f.length < 42 then []
  else if word16At f 20 = 1 ∧ word32At f 38 = vnGwIp then [arpReply f]
  else []

/-- The DHCP ACK's register writes: SIPR, GAR, SUBR (44 R325). -/
def State.storeLease (s : State) (gar subr sipr : Ip) : State :=
  ((s.putIp 0x000F sipr).putIp 0x0001 gar).putIp 0x0005 subr

/-- DISCOVER (44 R320, R322, R323). -/
def dhcpDiscover (c : VNetChoices) (xid : BitVec 32) (mac : Mac) (s : State) : List Frame × State :=
  match s.venv.dhcpState with
  | .idle =>
    let v := { s.venv with dhcpState := .offerSent, dhcpXid := xid, clientMac := mac }
    ([dhcpReply c v 2 bcastIp], { s with venv := v })
  | .offerSent | .complete =>
    let v := { s.venv with dhcpXid := xid, clientMac := mac }
    ([dhcpReply c v 2 bcastIp], { s with venv := v })
  | .discoverSeen | .requestSeen => ([], s)

/-- REQUEST (44 R320, R324, R325). -/
def dhcpRequest (c : VNetChoices) (xid : BitVec 32) (mac : Mac) (s : State) : List Frame × State :=
  match s.venv.dhcpState with
  | .offerSent | .complete =>
    if (xid = s.venv.dhcpXid ∧ mac = s.venv.clientMac) ∨ c.answerMismatch then
      ([dhcpReply c s.venv 5 vnClientIp],
        { s with venv := { s.venv with dhcpState := .complete } }.storeLease vnGwIp vnMask vnClientIp)
    else ([], s)
  | .idle | .discoverSeen | .requestSeen => ([], s)

/-- The DHCP responder (44 R320 to R326). -/
def dhcpRespond (c : VNetChoices) (f : Frame) (s : State) : List Frame × State :=
  match dhcpMessage c f with
  | none => ([], s)
  | some (d, t) =>
    if t = 1 then dhcpDiscover c (word32At f (d + 4)) (macAt f (d + 28)) s
    else if t = 3 then dhcpRequest c (word32At f (d + 4)) (macAt f (d + 28)) s
    else ([], s)

/-! ## TCP -/

/-- The work of the TCP responder in progress: the replies so far, the flow, the state. -/
structure Resp where
  out : List Frame
  flow : VTcp
  s : State
deriving DecidableEq, Repr

/-- One more segment; `our_seq` advances by `adv` after it (44 R338: "value before the advance"). -/
def Resp.emit (r : Resp) (c : VNetChoices) (flags : Byte) (payload : List Byte) (adv : Nat) : Resp :=
  { r with
    out := r.out ++ [tcpSegment (c.replies.getD r.out.length default) r.flow flags payload]
    flow := { r.flow with ourSeq := r.flow.ourSeq + BitVec.ofNat 32 adv } }

/-- The flow's host handle closed. -/
def Resp.closeHandle (r : Resp) : Resp :=
  match r.flow.handle with
  | some h => { r with flow := { r.flow with handle := none }, s := r.s.hostClose h }
  | none => r

/-- The flow updated. -/
def Resp.withFlow (r : Resp) (v : VTcp) : Resp := { r with flow := v }

/-- The state in which the work is done: the flow stored. -/
def Resp.done (r : Resp) : List Frame × State :=
  (r.out, { r.s with venv := { r.s.venv with vtcp := some r.flow } })

/-- FIN+ACK, and the host handle closed (44 R335). -/
def Resp.finAck (r : Resp) (c : VNetChoices) : Resp :=
  let r1 := r.emit c 0x11 [] 1
  (r1.withFlow { r1.flow with finSent := true }).closeHandle

/-- One PSH+ACK segment per piece (44 R333, R345). -/
def Resp.push (r : Resp) (c : VNetChoices) : List (List Byte) → Resp
  | [] => r
  | p :: ps => (r.emit c 0x18 p p.length).push c ps

/-- A payload forwarded to the host, where the handle is open (44 R333; log 12). -/
def Resp.forward (r : Resp) (payload : List Byte) : Resp :=
  match r.flow.handle with
  | some h => { r with s := r.s.logCall (.vtcpForward h payload) }
  | none => r

/-- `their_seq` advanced by the length of a payload (44 R333). -/
def Resp.advance (r : Resp) (len : Nat) : Resp :=
  r.withFlow { r.flow with theirSeq := r.flow.theirSeq + BitVec.ofNat 32 len }

/-- The response wait: what the host sends within it is sent on, and a zero-byte read closes (44 R333).
With the host handle closed there is nothing to read from (log 12). -/
def Resp.wait (r : Resp) (c : VNetChoices) : Resp :=
  match r.flow.handle with
  | none => r
  | some h =>
    let a := r.s.ask (.vtcpWait h)
    let r1 := ({ r with s := a.2 } : Resp).push c (a.1.asArrived.1.flatMap chunks)
    if a.1.asArrived.2 then r1.finAck c else r1

/-- A data segment: forwarded, acknowledged, then the response wait (44 R333). -/
def Resp.data (r : Resp) (c : VNetChoices) (payload : List Byte) : Resp :=
  (((r.forward payload).advance payload.length).emit c 0x10 [] 0).wait c

/-- A FIN from the client (44 R334). -/
def Resp.fin (r : Resp) (c : VNetChoices) : Resp :=
  let r1 := r.withFlow { r.flow with theirSeq := r.flow.theirSeq + 1, finReceived := true }
  let r2 := r1.emit c 0x10 [] 0
  let r3 := if r2.flow.finSent then r2 else r2.emit c 0x11 [] 1
  (r3.withFlow { r3.flow with finSent := true, established := false }).closeHandle

/-- The flow that a SYN opens, with the host handle `h` (44 R331). -/
def flowOf (g : Segment) (h : Option Handle) (ourSeq theirSeq : BitVec 32) : VTcp :=
  { handle := h, remoteMac := g.srcMac, remoteIp := g.srcIp, dialedIp := g.dstIp
    remotePort := g.srcPort, localPort := g.dstPort, ourSeq := ourSeq, theirSeq := theirSeq
    established := false, finSent := false, finReceived := false }

/-- A SYN with no ACK: any prior flow closed, the host connected, SYN+ACK or RST+ACK (44 R331, R336,
R339). DESIGN CHOICE: data, FIN and RST of such a segment are not looked at (log 34): unsafe. -/
def tcpSyn (c : VNetChoices) (g : Segment) (s : State) : List Frame × State :=
  let s1 := s.dropFlow
  let a := s1.ask (.vtcpConnect g.dstPort)
  match a.1.asHandle s1.liveHandles with
  | none =>
    ([tcpSegment (c.replies.getD 0 default) (flowOf g none c.rstSeq c.rstAck) 0x14 []], a.2)
  | some h =>
    let r : Resp := { out := [], flow := flowOf g (some h) vnIss (g.seq + 1), s := a.2 }
    (r.emit c 0x12 [] 1).done

/-- Whether a segment belongs to the live flow (44 R337). DESIGN CHOICE: "addresses" are the IPv4
addresses; the Ethernet source is not compared with `remote_mac` (log 35): unsafe. -/
def Segment.matchesFlow (g : Segment) (v : VTcp) : Bool :=
  g.srcIp == v.remoteIp && g.dstIp == v.dialedIp && g.srcPort == v.remotePort
    && g.dstPort == v.localPort

/-- An ACK completes the handshake of a flow that is not established (44 R332), also where the host has
closed meanwhile (44 R335); a flow that the client's FIN has ended is past its handshake (44 R334; log 12).
-/
def ackFlow (v : VTcp) (g : Segment) : VTcp :=
  if g.has 0x10 ∧ v.established = false ∧ v.finReceived = false then { v with established := true }
  else v

/-- A segment of the live flow that is neither SYN nor RST (44 R332 to R334). -/
def tcpOnFlow (c : VNetChoices) (g : Segment) (v : VTcp) (s : State) : List Frame × State :=
  let r : Resp := { out := [], flow := ackFlow v g, s := s }
  if (g.payload ≠ [] ∨ g.has 0x01) ∧ c.checkSeq ∧ g.seq ≠ v.theirSeq then r.done
  else
    let r1 := if g.payload ≠ [] ∧ (g.has 0x01 = false ∨ c.finData) then r.data c g.payload else r
    let r2 := if g.has 0x01 then r1.fin c else r1
    r2.done

/-- The third octet of an address (44 R330). -/
def thirdOctet (ip : Ip) : Byte := ip.extractLsb' 8 8

/-- The TCP responder (44 R330 to R339). A SYN with no ACK is the SYN rule's whatever else it carries
(DESIGN CHOICE, log 34: unsafe). -/
def tcpRespond (c : VNetChoices) (f : Frame) (s : State) : List Frame × State :=
  match tcpSegmentOf c f with
  | none => ([], s)
  | some g =>
    if thirdOctet g.dstIp ≠ 64 ∧ thirdOctet g.dstIp ≠ 65 then ([], s)
    else if g.has 0x02 ∧ g.has 0x10 = false then
      (if g.hasOptions ∧ c.dropSynOptions then ([], s) else tcpSyn c g s)
    else
      match s.venv.vtcp with
      | none => ([], s)
      | some v =>
        if g.matchesFlow v ∧ g.has 0x02 = false ∧ g.has 0x04 = false then tcpOnFlow c g v s
        else ([], s)

/-! ## The two entry points (42 R264) -/

/-- The responders on one outgoing frame: at most one of them runs (44 R312). -/
def respond (c : VNetChoices) (f : Frame) (s : State) : List Frame × State :=
  if f.length < 14 then ([], s)
  else if etherType f = 0x0806 then (arpRespond f, s)
  else if etherType f = 0x0800 ∧ ipProto f = 17 then dhcpRespond c f s
  else if etherType f = 0x0800 ∧ ipProto f = 6 then tcpRespond c f s
  else ([], s)

/-- An environment state that an unconstrained answer gives, its flow's handle kept only if it can be
a fresh one (42 R260; log 10). -/
def legalEnv (k : Sockets) (e : VEnv) : VEnv :=
  match e.vtcp with
  | none => e
  | some v =>
    match v.handle with
    | none => e
    | some h =>
      if 3 ≤ h ∧ h ∉ k.handles then e else { e with vtcp := some { v with handle := none } }

/-- The update of the environment state by an unconstrained answer (42 R264). -/
def State.setEnv (s : State) (e : Option VEnv) : State :=
  match e with
  | none => s
  | some v => { s with venv := legalEnv s.socks v }

/-- `VNet.frame(frame)` (42 R264, 44 R312). -/
def State.vnetFrame (s : State) (f : Frame) : List Frame × State :=
  let a := (s.logCall (.vnetFrame f)).nextVNet
  match a.1 with
  | .responder c => respond c f a.2
  | .oracle frames env regs =>
    let s1 := a.2.setEnv env
    (frames.filter (fun x => !x.isEmpty),
      match regs with
      | none => s1
      | some (gar, subr, sipr) => s1.storeLease gar subr sipr)

/-- What the virtual TCP flow sends on its own: the body of `VNet.poll()` (44 R345). -/
def tcpPoll (c : VNetChoices) (s : State) : List Frame × State :=
  match s.venv.vtcp with
  | none => ([], s)
  | some v =>
    match v.handle with
    | none => ([], s)
    | some h =>
      if c.pollNeedsEstablished ∧ v.established = false then ([], s)
      else
        let a := s.ask (.vtcpRead h)
        let r : Resp := { out := [], flow := v, s := a.2 }
        match a.1 with
        | .bytes [] => (r.finAck c).done
        | .bytes (b :: t) => (r.push c (chunks (b :: t))).done
        | _ => ([], a.2)

/-- `VNet.poll()` (42 R264, 44 R345); the image is not written. DESIGN CHOICE: a scripted answer of the
unconstrained oracle may return frames with no flow live (42 R264 "any frames"), where the responders return
none (42 R247; log 32): safe. -/
def State.vnetPoll (s : State) : List Frame × State :=
  let a := (s.logCall .vnetPoll).nextVNet
  match a.1 with
  | .responder c => tcpPoll c a.2
  | .oracle frames env _ => (frames.filter (fun x => !x.isEmpty), a.2.setEnv env)

end Sys2Proof.Machine
end

