-- ==== Sys2Proof/Machine/Commands.lean ====
section
/-! DEFINITION. The socket commands, the dispatcher that a write of Sn_CR runs, and the meanings of the CMD family. -/

namespace Sys2Proof.Machine

/-- OPEN with a host socket: the old handle released, a new one asked for by `call`, the status
`opened` or CLOSED (41 R201, R203, D14). -/
def State.openHost (s : State) (n : SockId) (call : EnvCall) (opened : Byte) : State :=
  let s1 := s.release n
  let a := s1.ask call
  match a.1.asHandle s1.liveHandles with
  | none => a.2.setStatus n srClosed
  | some h => (a.2.setHandle n (some h)).setStatus n opened

/-- OPEN, TCP (41 R201). -/
def State.openTcp (s : State) (n : SockId) : State := s.openHost n .openStream srInit

/-- OPEN, UDP (41 R203). -/
def State.openUdp (s : State) (n : SockId) : State := s.openHost n .openDgram srUdp

/-- OPEN, MACRAW, on socket 0 (41 R202). -/
def State.openMacraw (s : State) : State := ((s.release 0).setMacraw 0 true).setStatus 0 srMacraw

/-- LISTEN, its precondition `SR(n) = INIT` included (41 R205, R213). With no handle the bind fails
without a call. A failure is followed by the draw between keep and close (93 U2; log 9). -/
def State.listen (s : State) (n : SockId) : State :=
  if s.status n ≠ srInit then s
  else
    let r : Bool × State :=
      match (s.sock n).handle with
      | none => (false, s)
      | some h =>
        let a := s.ask (.bindListen h (s.get16 (snPort n)) 1)
        (a.1.isOk, a.2)
    if r.1 then r.2.setStatus n srListen
    else
      let k := r.2.nextAnswer
      if k.1.isClose then (k.2.release n).setStatus n srClosed else k.2

/-- CONNECT, its precondition `SR(n) = INIT` included (41 R204, R213). With no handle it fails without
a call. -/
def State.connect (s : State) (n : SockId) : State :=
  if s.status n ≠ srInit then s
  else
    match (s.sock n).handle with
    | none => (s.release n).setStatus n srClosed
    | some h =>
      let a := s.ask (.connect h (redirect (s.getIp (snDipr n))) (s.get16 (snDport n)))
      match a.1.asConnect with
      | .immediate => a.2.setStatus n srEstablished
      | .inProgress => (a.2.setStatus n srSynsent).setConnecting n true
      | .fail => (a.2.release n).setStatus n srClosed

/-- DISCON and CLOSE (41 R206, R207): the staging bytes and the pointer registers keep their values. -/
def State.closeSocket (s : State) (n : SockId) : State :=
  (((s.release n).setFill n 0 0).setMacraw n false).setStatus n srClosed

/-- SEND on an established stream socket, its precondition included (41 R208, R213). -/
def State.sendTcp (s : State) (n : SockId) : State :=
  if s.status n ≠ srEstablished then s
  else
    let r : Nat × State :=
      match (s.sock n).handle with
      | none => (0, s)
      | some h =>
        if s.txLen n = 0 then (0, s)
        else
          let a := s.ask (.send h (s.txData n))
          (a.1.asCount (s.txLen n), a.2)
    r.2.put16 (snTxRd n) (s.get16 (snTxRd n) + BitVec.ofNat 16 r.1)

/-- SEND on the MACRAW socket, its precondition included (41 R209, R213): the ring drained in every
case, the frame handed to the virtual layer if its length is 1..1600, the replies staged. -/
def State.sendMacraw (s : State) (n : SockId) : State :=
  if s.status n ≠ srMacraw then s
  else
    let s1 := s.put16 (snTxRd n) (s.get16 (snTxWr n))
    if s.txLen n = 0 ∨ Config.macrawMaxFrame < s.txLen n then s1
    else
      let a := s1.vnetFrame (s.txData n)
      a.2.rxInjectAll n a.1

/-- The delta of RECV: the distance from the staging head to the window position that Sn_RX_RD names
(41 R210, D16). -/
def State.recvDelta (s : State) (n : SockId) : Nat :=
  let d : Int := ((s.get16 (snRxRd n)).toNat : Int) - (rxBase n : Int) - ((s.sock n).rxHead : Int)
  if (s.sock n).macraw then (d % 65536).toNat else (d % 2048).toNat

/-- RECV (41 R210). Refused where the spec says that a model refuses it: a delta beyond the staged
data (93 U4; log 20), a MACRAW tail below the head (93 U14; log 21). -/
def State.recv (s : State) (n : SockId) : Except Refusal State :=
  match (s.sock n).rsr with
  | none => .error .macrawTailBelowHead
  | some fill =>
    if fill < s.recvDelta n then .error .recvBeyondStaged
    else
      let h := if (s.sock n).macraw then (s.sock n).rxHead + s.recvDelta n
        else ((s.sock n).rxHead + s.recvDelta n) % 2048
      if h = (s.sock n).rxTail then
        .ok ((s.setFill n 0 0).put16 (snRxRd n) (BitVec.ofNat 16 (rxBase n)))
      else .ok (s.setFill n h (s.sock n).rxTail)

/-- `dispatch_command(n, c)` (41 R200). -/
def State.dispatchCommand (s : State) (n : SockId) (c : Byte) : Except Refusal State :=
  if c = 0x01 then
    match openKindOf s.params n (s.peek (snMr n)) with
    | .tcp => .ok (s.openTcp n)
    | .udp => .ok (s.openUdp n)
    | .macraw => .ok s.openMacraw
    | .other => .ok s
  else if c = 0x02 then .ok (s.listen n)
  else if c = 0x04 then .ok (s.connect n)
  else if c = 0x08 then .ok (s.closeSocket n)
  else if c = 0x10 then .ok (s.closeSocket n)
  else if c = 0x20 then .ok (if s.status n = srMacraw then s.sendMacraw n else s.sendTcp n)
  else if c = 0x40 then s.recv n
  else .ok s

/-- The outcome of an operation that may be refused. -/
def outcome : Except Refusal State → Result
  | .ok s => .next s
  | .error r => .refused r

/-- CMD.OPEN_TCP (41 R201). -/
def execCmdOpenTcp (n : SockId) (s : State) : Result := .next (s.openTcp n)

/-- CMD.OPEN_UDP (41 R203). -/
def execCmdOpenUdp (n : SockId) (s : State) : Result := .next (s.openUdp n)

/-- CMD.OPEN_MACRAW (41 R202). -/
def execCmdOpenMacraw (s : State) : Result := .next s.openMacraw

/-- CMD.OPEN_OTHER: nothing (41 R211). -/
def execCmdOpenOther (_ : SockId) (s : State) : Result := .next s

/-- CMD.LISTEN (41 R205). -/
def execCmdListen (n : SockId) (s : State) : Result := .next (s.listen n)

/-- CMD.CONNECT (41 R204). -/
def execCmdConnect (n : SockId) (s : State) : Result := .next (s.connect n)

/-- CMD.DISCON (41 R206). -/
def execCmdDiscon (n : SockId) (s : State) : Result := .next (s.closeSocket n)

/-- CMD.CLOSE (41 R207). -/
def execCmdClose (n : SockId) (s : State) : Result := .next (s.closeSocket n)

/-- CMD.SEND_MACRAW (41 R209). -/
def execCmdSendMacraw (n : SockId) (s : State) : Result := .next (s.sendMacraw n)

/-- CMD.SEND_TCP (41 R208). -/
def execCmdSendTcp (n : SockId) (s : State) : Result := .next (s.sendTcp n)

/-- CMD.RECV (41 R210). -/
def execCmdRecv (n : SockId) (s : State) : Result := outcome (s.recv n)

/-- CMD.UNLISTED: nothing (41 R212). -/
def execCmdUnlisted (_ : SockId) (_ : Byte) (s : State) : Result := .next s

end Sys2Proof.Machine
end

