-- ==== Sys2Proof/Machine/Poll.lean ====
section
/-! DEFINITION. The read-time polls: socket_poll in its three steps, virtual_tcp_poll, and the meanings of the POLL family. -/

namespace Sys2Proof.Machine

/-- `peer_closed(n)` (42 R244). -/
def State.peerClosed (s : State) (n : SockId) : State := (s.release n).setStatus n srCloseWait

/-- `stage(n, data)` (42 R243). -/
def State.stage (s : State) (n : SockId) (data : List Byte) : State :=
  let k := s.sock n
  s.setSock n { k with
    staging := stageRing k.staging k.rxTail data, rxTail := (k.rxTail + data.length) % 2048 }

/-- Step 1, connect completion (42 R241). -/
def State.pollConnect (s : State) (n : SockId) : State :=
  match (s.sock n).handle with
  | none => s
  | some h =>
    if (s.sock n).connecting = false then s
    else
      let w := s.ask (.writable h)
      if w.1.isTrue = false then w.2
      else
        let e := w.2.ask (.soError h)
        let s1 := e.2.setConnecting n false
        if e.1.isOk then s1.setStatus n srEstablished else (s1.release n).setStatus n srClosed

/-- Step 2, receive (42 R242). -/
def State.pollReceive (s : State) (n : SockId) : State :=
  match (s.sock n).handle with
  | none => s
  | some h =>
    if s.status n ≠ srEstablished then s
    else
      let rd := s.ask (.readable h)
      if rd.1.isTrue = false then rd.2
      else
        let free := 2047 - ringFill (s.sock n).rxHead (s.sock n).rxTail
        if free = 0 then rd.2
        else
          let d := rd.2.ask (.recv h free)
          match d.1.asBytes free with
          | none => d.2
          | some [] => d.2.peerClosed n
          | some (b :: t) => d.2.stage n (b :: t)

/-- Step 3, accept (42 R245). -/
def State.pollAccept (s : State) (n : SockId) : State :=
  match (s.sock n).handle with
  | none => s
  | some h =>
    if s.status n ≠ srListen then s
    else
      let rd := s.ask (.readable h)
      if rd.1.isTrue = false then rd.2
      else
        let a := rd.2.ask (.accept h)
        match a.1.asHandle s.liveHandles with
        | none => a.2
        | some h' => ((a.2.hostClose h).setHandle n (some h')).setStatus n srEstablished

/-- `socket_poll(n)`: the three steps in order, each guarded by the state as it then is (42 R240). -/
def State.socketPoll (s : State) (n : SockId) : State :=
  ((s.pollConnect n).pollReceive n).pollAccept n

/-- `virtual_tcp_poll(0)` (42 R247). -/
def State.virtualTcpPoll (s : State) : State :=
  let a := s.vnetPoll
  a.2.rxInjectAll 0 a.1

/-- The polls of a read of socket `n`'s page: socket_poll, then virtual_tcp_poll if MACRAW (40 R172).
-/
def State.pagePoll (s : State) (n : SockId) : State :=
  let s1 := s.socketPoll n
  if (s1.sock n).macraw then s1.virtualTcpPoll else s1

/-- POLL.SOCKET (42 R240). -/
def execPollSocket (n : SockId) (s : State) : Result := .next (s.socketPoll n)

/-- POLL.VTCP (42 R247). -/
def execPollVtcp (s : State) : Result := .next s.virtualTcpPoll

end Sys2Proof.Machine
end

