-- ==== Sys2Proof/Machine/Image.lean ====
section
/-! DEFINITION. The bus-read and bus-write paths into the image (40 R170 to R185) and the meanings of the IMG family. -/

namespace Sys2Proof.Machine

/-- What a read of the bus-read path gives: the byte and the state after its side effects. -/
abbrev ReadResult := Except Refusal (Byte × State)

/-- The byte at offset `o` of socket `n`'s page, the polls being done: computed for Sn_TX_FSR and
Sn_RX_RSR, stored otherwise (40 R172, R173). Sn_RX_RSR has no value where 93 U14 says so (log 21). -/
def State.pageByte (s : State) (n : SockId) (o : Byte) : Except Refusal Byte :=
  if o = 0x20 ∨ o = 0x21 then .ok (regByte (s.fsr n) (o == 0x21))
  else if o = 0x26 ∨ o = 0x27 then
    match (s.sock n).rsr with
    | none => .error .macrawTailBelowHead
    | some v => .ok (regByte (BitVec.ofNat 16 v) (o == 0x27))
  else .ok (s.peek (sockBase n + o.toNat))

/-- A read of socket `n`'s page at offset `o`: the polls first, then the byte (40 R172). -/
def State.readPage (s : State) (n : SockId) (o : Byte) : ReadResult :=
  match (s.pagePoll n).pageByte n o with
  | .ok b => .ok (b, s.pagePoll n)
  | .error r => .error r

/-- `MemRead(a, 1)` (40 R170; classes of 30 R132, fields of 30 R125). -/
def State.memRead (s : State) (a : Word16) : ReadResult :=
  let x := a.toNat
  if 0x8000 ≤ x then .ok (0, s)
  else if x / 0x400 = 1 then s.readPage (Fin.ofNat 4 (x / 0x100)) (BitVec.ofNat 8 x)
  else if x / 0x2000 = 3 then .ok (s.window (Fin.ofNat 4 (x / 0x800)) x, s)
  else .ok (s.peek x, s)

/-- A write of `Sn_CR(n)`: the whole command, then 0 stored (40 R183). -/
def State.writeCommand (s : State) (n : SockId) (v : Byte) : Except Refusal State :=
  match s.dispatchCommand n v with
  | .ok s1 => .ok (s1.poke (snCr n) 0)
  | .error r => .error r

/-- `MemWrite(a, 1, v)` (40 R180; classes of 30 R133). -/
def State.memWrite (s : State) (a : Word16) (v : Byte) : Except Refusal State :=
  let x := a.toNat
  if 0x8000 ≤ x then .ok s
  else if x = 0 then .ok (s.writeMode v)
  else if x / 0x400 = 1 ∧ x % 0x100 = 1 then s.writeCommand (Fin.ofNat 4 (x / 0x100)) v
  else .ok (s.poke x v)

/-- The outcome of a read: the byte delivered. -/
def readOutcome : ReadResult → Result
  | .ok r => .next (r.2.deliver r.1)
  | .error r => .refused r

/-- IMG.RD_INVALID (40 R171). -/
def execImgRdInvalid (_ : BitVec 15) (s : State) : Result := .next (s.deliver 0)

/-- IMG.RD_TX_FSR (40 R173). -/
def execImgRdTxFsr (n : SockId) (low : Bool) (s : State) : Result :=
  readOutcome (s.readPage n (if low then 0x21 else 0x20))

/-- IMG.RD_RX_RSR (40 R173). -/
def execImgRdRxRsr (n : SockId) (low : Bool) (s : State) : Result :=
  readOutcome (s.readPage n (if low then 0x27 else 0x26))

/-- IMG.RD_SOCKREG (40 R172). -/
def execImgRdSockreg (n : SockId) (o : Byte) (s : State) : Result := readOutcome (s.readPage n o)

/-- IMG.RD_RXWIN (40 R174). -/
def execImgRdRxwin (n : SockId) (i : BitVec 11) (s : State) : Result :=
  .next (s.deliver (s.window n i.toNat))

/-- IMG.RD_PLAIN (40 R175). -/
def execImgRdPlain (a : BitVec 15) (s : State) : Result := .next (s.deliver (s.peek a.toNat))

/-- IMG.WR_INVALID: nothing (40 R181). -/
def execImgWrInvalid (_ : BitVec 15) (_ : Byte) (s : State) : Result := .next s

/-- IMG.WR_MODE (40 R182). -/
def execImgWrMode (v : Byte) (s : State) : Result := .next (s.writeMode v)

/-- IMG.WR_SN_CR (40 R183). -/
def execImgWrSnCr (n : SockId) (v : Byte) (s : State) : Result := outcome (s.writeCommand n v)

/-- IMG.WR_PLAIN (40 R184, R185). -/
def execImgWrPlain (a : BitVec 15) (v : Byte) (s : State) : Result := .next (s.poke a.toNat v)

end Sys2Proof.Machine
end

