-- ==== Sys2Proof/Machine/U2.lean ====
section
/-! DEFINITION. The bus operations of the Uthernet II card: the meanings of the U2 family's BUS rows (file 40). -/

namespace Sys2Proof.Machine

/-- The identification byte at `ploc` of the card's ROM window (40 R161, 30 R131). -/
def u2RomByte (ploc : Byte) : Byte :=
  if ploc = 0x05 then 0x38 else if ploc = 0x07 then 0x18 else 0x00

/-- U2.RD_ROM (40 R161). -/
def execU2RdRom (ploc : Byte) (s : State) : Result := .next (s.deliver (u2RomByte ploc))

/-- U2.WR_ROM: nothing (40 R177). -/
def execU2WrRom (_ _ : Byte) (s : State) : Result := .next s

/-- U2.RD_MODE (40 R165). -/
def execU2RdMode (s : State) : Result := .next (s.deliver (s.peek 0))

/-- U2.WR_MODE (40 R162). -/
def execU2WrMode (v : Byte) (s : State) : Result := .next (s.writeMode v)

/-- U2.RD_ARH (40 R166). -/
def execU2RdArh (s : State) : Result := .next (s.deliver (hiByte s.addrPtr))

/-- U2.WR_ARH (40 R163, 30 R124). -/
def execU2WrArh (v : Byte) (s : State) : Result :=
  .next { s with addrPtr := word16 v (loByte s.addrPtr) }

/-- U2.RD_ARL (40 R167). -/
def execU2RdArl (s : State) : Result := .next (s.deliver (loByte s.addrPtr))

/-- U2.WR_ARL (40 R164, 30 R124). -/
def execU2WrArl (v : Byte) (s : State) : Result :=
  .next { s with addrPtr := word16 (hiByte s.addrPtr) v }

/-- U2.RD_DATA (40 R168): the bus-read path at the pointer, then the post-increment. -/
def execU2RdData (s : State) : Result :=
  match s.memRead s.addrPtr with
  | .ok r => .next (r.2.postIncrement.deliver r.1)
  | .error r => .refused r

/-- U2.WR_DATA (40 R176): the bus-write path at the pointer, then the post-increment. -/
def execU2WrData (v : Byte) (s : State) : Result :=
  match s.memWrite s.addrPtr v with
  | .ok s1 => .next s1.postIncrement
  | .error r => .refused r

/-- U2.RD_UNASSIGNED, soft switches 0..3 (40 R178). -/
def execU2RdUnassignedLow (_ : BitVec 2) (s : State) : Result := .next (s.deliver 0)

/-- U2.RD_UNASSIGNED, soft switches 8..15 (40 R178). -/
def execU2RdUnassignedHigh (_ : BitVec 3) (s : State) : Result := .next (s.deliver 0)

/-- U2.WR_UNASSIGNED, soft switches 0..3: nothing (40 R179). -/
def execU2WrUnassignedLow (_ : BitVec 2) (_ : Byte) (s : State) : Result := .next s

/-- U2.WR_UNASSIGNED, soft switches 8..15: nothing (40 R179). -/
def execU2WrUnassignedHigh (_ : BitVec 3) (_ : Byte) (s : State) : Result := .next s

end Sys2Proof.Machine
end

