-- ==== Sys2Proof/Machine/Dispatch.lean ====
section
/-! DEFINITION. One arm per operation: its meaning. -/

namespace Sys2Proof.Machine

def exec (i : Instr) (s : State) : Host.Outcome State Fault Refusal :=
  match i with
  | .u2RdRom ploc => Sys2Proof.Machine.execU2RdRom ploc s
  | .u2WrRom ploc val => Sys2Proof.Machine.execU2WrRom ploc val s
  | .u2RdMode => Sys2Proof.Machine.execU2RdMode s
  | .u2WrMode val => Sys2Proof.Machine.execU2WrMode val s
  | .u2RdArh => Sys2Proof.Machine.execU2RdArh s
  | .u2WrArh val => Sys2Proof.Machine.execU2WrArh val s
  | .u2RdArl => Sys2Proof.Machine.execU2RdArl s
  | .u2WrArl val => Sys2Proof.Machine.execU2WrArl val s
  | .u2RdData => Sys2Proof.Machine.execU2RdData s
  | .u2WrData val => Sys2Proof.Machine.execU2WrData val s
  | .u2RdUnassignedLow psw => Sys2Proof.Machine.execU2RdUnassignedLow psw s
  | .u2RdUnassignedHigh psw => Sys2Proof.Machine.execU2RdUnassignedHigh psw s
  | .u2WrUnassignedLow psw val => Sys2Proof.Machine.execU2WrUnassignedLow psw val s
  | .u2WrUnassignedHigh psw val => Sys2Proof.Machine.execU2WrUnassignedHigh psw val s
  | .imgRdInvalid a => Sys2Proof.Machine.execImgRdInvalid a s
  | .imgRdTxFsr n low => Sys2Proof.Machine.execImgRdTxFsr n low s
  | .imgRdRxRsr n low => Sys2Proof.Machine.execImgRdRxRsr n low s
  | .imgRdSockreg n o => Sys2Proof.Machine.execImgRdSockreg n o s
  | .imgRdRxwin n k => Sys2Proof.Machine.execImgRdRxwin n k s
  | .imgRdPlain a => Sys2Proof.Machine.execImgRdPlain a s
  | .imgWrInvalid a v => Sys2Proof.Machine.execImgWrInvalid a v s
  | .imgWrMode v => Sys2Proof.Machine.execImgWrMode v s
  | .imgWrSnCr n v => Sys2Proof.Machine.execImgWrSnCr n v s
  | .imgWrPlain a v => Sys2Proof.Machine.execImgWrPlain a v s
  | .cmdOpenTcp n => Sys2Proof.Machine.execCmdOpenTcp n s
  | .cmdOpenUdp n => Sys2Proof.Machine.execCmdOpenUdp n s
  | .cmdOpenMacraw => Sys2Proof.Machine.execCmdOpenMacraw s
  | .cmdOpenOther n => Sys2Proof.Machine.execCmdOpenOther n s
  | .cmdListen n => Sys2Proof.Machine.execCmdListen n s
  | .cmdConnect n => Sys2Proof.Machine.execCmdConnect n s
  | .cmdDiscon n => Sys2Proof.Machine.execCmdDiscon n s
  | .cmdClose n => Sys2Proof.Machine.execCmdClose n s
  | .cmdSendMacraw n => Sys2Proof.Machine.execCmdSendMacraw n s
  | .cmdSendTcp n => Sys2Proof.Machine.execCmdSendTcp n s
  | .cmdRecv n => Sys2Proof.Machine.execCmdRecv n s
  | .cmdUnlisted n c => Sys2Proof.Machine.execCmdUnlisted n c s
  | .pollSocket n => Sys2Proof.Machine.execPollSocket n s
  | .pollVtcp => Sys2Proof.Machine.execPollVtcp s
  | .piaRdRom ploc => Sys2Proof.Machine.execPiaRdRom ploc s
  | .piaWrRom ploc val => Sys2Proof.Machine.execPiaWrRom ploc val s
  | .piaRdOra => Sys2Proof.Machine.execPiaRdOra s
  | .piaWrOra val => Sys2Proof.Machine.execPiaWrOra val s
  | .piaRdDdra => Sys2Proof.Machine.execPiaRdDdra s
  | .piaWrDdra val => Sys2Proof.Machine.execPiaWrDdra val s
  | .piaRdCra => Sys2Proof.Machine.execPiaRdCra s
  | .piaWrCra val => Sys2Proof.Machine.execPiaWrCra val s
  | .piaRdOrb => Sys2Proof.Machine.execPiaRdOrb s
  | .piaWrOrb val => Sys2Proof.Machine.execPiaWrOrb val s
  | .piaRdDdrb => Sys2Proof.Machine.execPiaRdDdrb s
  | .piaWrDdrb val => Sys2Proof.Machine.execPiaWrDdrb val s
  | .piaRdCrb => Sys2Proof.Machine.execPiaRdCrb s
  | .piaWrCrb val => Sys2Proof.Machine.execPiaWrCrb val s
  | .piaRdUnassignedLow psw => Sys2Proof.Machine.execPiaRdUnassignedLow psw s
  | .piaRdUnassignedHigh psw => Sys2Proof.Machine.execPiaRdUnassignedHigh psw s
  | .piaWrUnassignedLow psw val => Sys2Proof.Machine.execPiaWrUnassignedLow psw val s
  | .piaWrUnassignedHigh psw val => Sys2Proof.Machine.execPiaWrUnassignedHigh psw val s
  | .u2SetSlot slot => Sys2Proof.Machine.execU2SetSlot slot s
  | .mouseSetSlot slot => Sys2Proof.Machine.execMouseSetSlot slot s
  | .mouseSetPosition x y => Sys2Proof.Machine.execMouseSetPosition x y s
  | .mouseSetButton pressed => Sys2Proof.Machine.execMouseSetButton pressed s
  | .mouseGetState => Sys2Proof.Machine.execMouseGetState s

end Sys2Proof.Machine
end

