-- ==== Sys2Proof/Machine/Fetch.lean ====
section
/-! DEFINITION. Taking the next request: its decoding under the conditions of the state, and what the step does around the operation (log 1). -/

namespace Sys2Proof.Machine

/-- What the fetch finds. -/
inductive Fetched where
  /-- No request is pending. -/
  | idle
  /-- The request is no operation. -/
  | stop (e : DecodeError)
  /-- An operation, and the state in which it runs. -/
  | run (i : Instr) (s : State)
deriving DecidableEq, Repr

/-- The state with the request `r` taken from the list, `rest` left; an access to a card starts the
emulation (93 U12). -/
def State.take (s : State) (r : Request) (rest : List Request) : State :=
  { s with pending := rest, started := s.started || r.isAccess }

/-- The next operation: decoded under the conditions of the state. -/
def State.fetch (s : State) : Fetched :=
  match s.pending with
  | [] => .idle
  | r :: rest =>
    match decode (s.cond r.socket) r with
    | .ok i => .run i (s.take r rest)
    | .error e => .stop e

/-- The state with a request put before those that are pending. -/
def State.withRequest (s : State) (r : Request) : State := { s with pending := r :: s.pending }

end Sys2Proof.Machine
end

