-- ==== Sys2Proof/Machine/Step.lean ====
section
/-! DEFINITION. One step: the next pending request, carried out whole. -/

namespace Sys2Proof.Machine

/-- One step (00 R3, 20 R105): the next request is decoded and its operation runs to completion. With
no request pending nothing changes: "Between bus accesses, and inside every other access, the block's
state does not change" (20 R110). -/
def step (s : State) : Host.Outcome State Fault Refusal :=
  match s.fetch with
  | .idle => .next s
  | .stop e => .refused (.badRequest e)
  | .run i t => exec i t

/-- The state with the operation of a word of the opcode table as its next request (log 1, 3). -/
def State.withFetchWord (s : State) (nbits w : Nat) : State := s.withRequest (Request.ofTableWord nbits w)

end Sys2Proof.Machine
end

