-- ==== Sys2Proof/Safety.lean ====
section
/-! DEFINITION. What counts as a safe run, in the terms that the statements use: the invariants of the state, and the software discipline that some of them need. -/

namespace Sys2Proof.Machine

/-- Every memory of the state is in its canonical form (log 15, 16). -/
def State.MemoriesCanonical (s : State) : Prop :=
  s.mem.wf imageDefault Config.memSize = true ∧ s.mouseRom.wf fallbackRom Config.mouseRomSize = true
    ∧ ∀ n, (s.sock n).staging.wf stagingDefault Config.stagingCap = true

/-- The command registers read 0 and mode bit 7 reads 0 (10 R77 I1, I2). -/
def State.RegistersSettled (s : State) : Prop :=
  (∀ n, s.peek (snCr n) = 0) ∧ s.peek 0 &&& 0x80 = 0

/-- CRA and CRB bits 7..6 read 0 (10 R69). -/
def State.ControlsMasked (s : State) : Prop :=
  s.pia.cra &&& 0xC0 = 0 ∧ s.pia.crb &&& 0xC0 = 0

/-- Socket `n` is in MACRAW mode only if it is socket 0 (10 R64, R77 I4), a connect is in progress only
where there is a handle (10 R77 I6, in part), and head and tail stay inside the staging buffer (10 R63).
-/
def Sock.sane (n : SockId) (k : Sock) : Prop :=
  (k.macraw = true → n = 0) ∧ (k.connecting = true → k.handle ≠ none) ∧ k.rxHead ≤ 4096 ∧ k.rxTail ≤ 4096

/-- Every socket is so. -/
def State.SocketsSane (s : State) : Prop := ∀ n, (s.sock n).sane n

/-- Every live handle has one owner, and none is a reserved standard stream (10 R60, 42 R260). -/
def State.HandlesOwned (s : State) : Prop :=
  s.liveHandles.Nodup ∧ ∀ h ∈ s.liveHandles, 3 ≤ h

/-- The slot parameters are in 1..7 where they are set, and distinct (00 R8, D38). -/
def State.SlotsLegal (s : State) : Prop :=
  (∀ k, s.params.u2Slot = some k → 1 ≤ k ∧ k ≤ 7) ∧ (∀ k, s.params.mouseSlot = some k → 1 ≤ k ∧ k ≤ 7)
    ∧ ∀ k, s.params.u2Slot = some k → s.params.mouseSlot ≠ some k

/-- What every step keeps, whatever software does. -/
def State.Sound (s : State) : Prop :=
  s.MemoriesCanonical ∧ s.RegistersSettled ∧ s.ControlsMasked ∧ s.SocketsSane ∧ s.HandlesOwned ∧ s.SlotsLegal

/-- The status and the handle of every socket agree (10 R77 I5, I6): true as long as software does not
write a status byte. -/
def State.StatusAgrees (s : State) : Prop :=
  ∀ n, ((s.status n = srClosed ∨ s.status n = srCloseWait ∨ s.status n = srMacraw) →
      (s.sock n).handle = none)
    ∧ ((s.sock n).connecting = true → s.status n = srSynsent)

/-- The operation stores a byte at image address `a`: through the Data port, whose address is the
pointer, or on its own. -/
def storesAt (s : State) (a : Nat) (i : Instr) : Prop :=
  (∃ v, i = .u2WrData v ∧ s.addrPtr.toNat = a) ∨ (∃ b v, i = .imgWrPlain b v ∧ b.toNat = a)

/-- The operation carries out RECV on socket `n`: the command itself, a write of 0x40 to its command
register, or a Data write of 0x40 there (40 R176, R183, 41 R210). -/
def runsRecv (s : State) (n : SockId) (i : Instr) : Prop :=
  i = .cmdRecv n ∨ i = .imgWrSnCr n 0x40 ∨ (i = .u2WrData 0x40 ∧ s.addrPtr.toNat = snCr n)

/-- The operation reads a byte of `Sn_RX_RSR` of socket `n`, directly or through the Data port (40 R173). -/
def readsRsr (s : State) (n : SockId) (i : Instr) : Prop :=
  (∃ low, i = .imgRdRxRsr n low)
    ∨ (i = .u2RdData ∧ (s.addrPtr.toNat = sockBase n + 0x26 ∨ s.addrPtr.toNat = sockBase n + 0x27))

/-- The linear fill level of the socket has no value: MACRAW, its tail below its head (70 R414, 93 U14). -/
def Sock.tailBelowHead (k : Sock) : Prop := k.macraw = true ∧ k.rxTail < k.rxHead

/-- The virtual network layer is the responders of file 44, as far as the script says (44 R310; log 10). -/
def State.responders (s : State) : Prop := ∀ a ∈ s.vnetScript, ∃ c, a = .responder c

/-- The operation is one of the Uthernet II card's: a bus access to it, or a part of one. -/
def isU2 : Instr → Bool
  | .u2RdRom _ | .u2WrRom _ _ | .u2RdMode | .u2WrMode _ | .u2RdArh | .u2WrArh _ | .u2RdArl | .u2WrArl _
  | .u2RdData | .u2WrData _ | .u2RdUnassignedLow _ | .u2RdUnassignedHigh _ | .u2WrUnassignedLow _ _
  | .u2WrUnassignedHigh _ _ => true
  | .imgRdInvalid _ | .imgRdTxFsr _ _ | .imgRdRxRsr _ _ | .imgRdSockreg _ _ | .imgRdRxwin _ _
  | .imgRdPlain _ | .imgWrInvalid _ _ | .imgWrMode _ | .imgWrSnCr _ _ | .imgWrPlain _ _ => true
  | .cmdOpenTcp _ | .cmdOpenUdp _ | .cmdOpenMacraw | .cmdOpenOther _ | .cmdListen _ | .cmdConnect _
  | .cmdDiscon _ | .cmdClose _ | .cmdSendMacraw _ | .cmdSendTcp _ | .cmdRecv _ | .cmdUnlisted _ _ => true
  | .pollSocket _ | .pollVtcp => true
  | .piaRdRom _ | .piaWrRom _ _ | .piaRdOra | .piaWrOra _ | .piaRdDdra | .piaWrDdra _ | .piaRdCra
  | .piaWrCra _ | .piaRdOrb | .piaWrOrb _ | .piaRdDdrb | .piaWrDdrb _ | .piaRdCrb | .piaWrCrb _
  | .piaRdUnassignedLow _ | .piaRdUnassignedHigh _ | .piaWrUnassignedLow _ _
  | .piaWrUnassignedHigh _ _ => false
  | .u2SetSlot _ | .mouseSetSlot _ | .mouseSetPosition _ _ | .mouseSetButton _ | .mouseGetState => false

/-- The operation is a bus access to the AppleMouse card. -/
def isPia : Instr → Bool
  | .piaRdRom _ | .piaWrRom _ _ | .piaRdOra | .piaWrOra _ | .piaRdDdra | .piaWrDdra _ | .piaRdCra
  | .piaWrCra _ | .piaRdOrb | .piaWrOrb _ | .piaRdDdrb | .piaWrDdrb _ | .piaRdCrb | .piaWrCrb _
  | .piaRdUnassignedLow _ | .piaRdUnassignedHigh _ | .piaWrUnassignedLow _ _
  | .piaWrUnassignedHigh _ _ => true
  | .u2RdRom _ | .u2WrRom _ _ | .u2RdMode | .u2WrMode _ | .u2RdArh | .u2WrArh _ | .u2RdArl | .u2WrArl _
  | .u2RdData | .u2WrData _ | .u2RdUnassignedLow _ | .u2RdUnassignedHigh _ | .u2WrUnassignedLow _ _
  | .u2WrUnassignedHigh _ _ => false
  | .imgRdInvalid _ | .imgRdTxFsr _ _ | .imgRdRxRsr _ _ | .imgRdSockreg _ _ | .imgRdRxwin _ _
  | .imgRdPlain _ | .imgWrInvalid _ _ | .imgWrMode _ | .imgWrSnCr _ _ | .imgWrPlain _ _ => false
  | .cmdOpenTcp _ | .cmdOpenUdp _ | .cmdOpenMacraw | .cmdOpenOther _ | .cmdListen _ | .cmdConnect _
  | .cmdDiscon _ | .cmdClose _ | .cmdSendMacraw _ | .cmdSendTcp _ | .cmdRecv _ | .cmdUnlisted _ _ => false
  | .pollSocket _ | .pollVtcp => false
  | .u2SetSlot _ | .mouseSetSlot _ | .mouseSetPosition _ _ | .mouseSetButton _ | .mouseGetState => false

/-! ## What frames are said with -/

/-- The part of the state that neither the socket commands nor the polls nor the oracles reach (42
R266): the pointer, the mouse card, the parameters, and the model's own fields but for the oracles'. -/
structure Aside where
  addrPtr : Word16
  pia : Pia
  mouse : Mouse
  mouseRom : Memory
  params : Params
  pending : List Request
  started : Bool
  delivered : Option Byte
  report : Option MouseReport
  resets : Nat
deriving DecidableEq, Repr

/-- That part of a state. -/
def State.aside (s : State) : Aside :=
  { addrPtr := s.addrPtr, pia := s.pia, mouse := s.mouse, mouseRom := s.mouseRom, params := s.params
    pending := s.pending, started := s.started, delivered := s.delivered, report := s.report
    resets := s.resets }

/-- Every byte of the image outside `p` reads in `t` as in `s`. -/
def State.keepsOutside (s t : State) (p : Nat → Prop) : Prop := ∀ a, ¬ p a → t.peek a = s.peek a

/-- Every byte of the image reads in `t` as in `s`. -/
def State.keepsImage (s t : State) : Prop := ∀ a, t.peek a = s.peek a

/-- Every socket but `n` has in `t` the extension state it has in `s`. -/
def State.keepsOthers (s t : State) (n : SockId) : Prop := ∀ m, m ≠ n → t.sock m = s.sock m

/-- The twelve bytes GAR, SUBR, SIPR of the image, which the virtual network layer may write (42 R264).
-/
def leaseByte (a : Nat) : Prop := (1 ≤ a ∧ a ≤ 8) ∨ (0x0F ≤ a ∧ a ≤ 0x12)

/-- `Sn_RX_RSR` and RECV have a defined fill level on socket `n` whatever a poll stages first: the
socket is not in MACRAW mode, or it is, owns no host handle, and its tail is not below its head (10
R63, 70 R414). -/
def State.fillDefined (s : State) (n : SockId) : Prop :=
  (s.sock n).macraw = false ∨ ((s.sock n).handle = none ∧ (s.sock n).rxHead ≤ (s.sock n).rxTail)

/-- RECV on socket `n` has the spec's precondition `delta <= fill` (41 R210). -/
def State.recvReady (s : State) (n : SockId) : Prop :=
  ∃ fill, (s.sock n).rsr = some fill ∧ s.recvDelta n ≤ fill

/-- The image bytes of a 16-bit register at `a`. -/
def regBytes (a : Nat) (b : Nat) : Prop := b = a ∨ b = a + 1

/-! ## What draws are said with -/

/-- The answer that the `Host` oracle gives at the `k`-th draw from here (42 R260). -/
def State.answerAt (s : State) (k : Nat) : HostAnswer :=
  match s.hostScript[k]? with
  | some a => a
  | none => Config.hostAnswer (s.hostDraws + k)

/-- From `s` to `t` the `Host` oracle has answered `k` times and the `VNet` oracle not at all. -/
def State.drawn (s t : State) (k : Nat) : Prop :=
  t.hostDraws = s.hostDraws + k ∧ t.hostScript = s.hostScript.drop k ∧ t.vnetDraws = s.vnetDraws
    ∧ t.vnetScript = s.vnetScript

/-- The calls that a release of socket `n` makes: its handle is closed, unless it is a reserved standard
stream (41 R216). -/
def State.closes (s : State) (n : SockId) : List EnvCall :=
  ((s.sock n).handle.toList.filter (3 ≤ ·)).map EnvCall.close

/-- From `s` to `t` nothing has changed but bytes of the image that `p` names, socket `n`'s extension
state, the draws of the `Host` oracle and the call log. -/
def State.onlySocket (s t : State) (n : SockId) (p : Nat → Prop) : Prop :=
  s.keepsOutside t p ∧ s.keepsOthers t n ∧ t.venv = s.venv ∧ t.aside = s.aside

/-- What OPEN with a host socket leaves: `call` asked, the handle it answered if any, the status `sr` or
CLOSED, nothing else (41 R201, R203). -/
def State.openedAs (s t : State) (n : SockId) (call : EnvCall) (sr : Byte) : Prop :=
  let r := (s.answerAt 0).asHandle (s.release n).liveHandles
  t.status n = (if r = none then srClosed else sr)
    ∧ t.sock n = { s.sock n with handle := r, connecting := false }
    ∧ (∀ h, r = some h → 3 ≤ h ∧ s.venv.handle ≠ some h ∧ ∀ m, m ≠ n → (s.sock m).handle ≠ some h)
    ∧ s.onlySocket t n (· = snSr n) ∧ s.drawn t 1 ∧ t.envLog = call :: s.closes n ++ s.envLog

/-- What the pointer becomes after a Data access that leaves the mode byte `mode` (40 R169). -/
def nextPtr (mode : Byte) (p : Word16) : Word16 :=
  if mode &&& 0x02 = 0 then p else BitVec.ofNat 16 ((p.toNat + 1) % 0x8000)

/-- The request is an access to the Data port. -/
def isDataAccess (r : Request) : Prop :=
  r = .bus 0x00700 ∨ ∃ v : Byte, r = .bus (BitVec.ofNat 24 (0x20700 + v.toNat))

/-- How far a DHCP state has come (44 R320). -/
def dhcpRank : DhcpState → Nat
  | .idle => 0
  | .discoverSeen => 1
  | .offerSent => 2
  | .requestSeen => 3
  | .complete => 4

/-- The operation acts on socket `n` through its page: a read of the page, a command, a write of its
command register, a poll. -/
def actsOn (n : SockId) : Instr → Prop
  | .imgRdTxFsr m _ | .imgRdRxRsr m _ | .imgRdSockreg m _ | .imgWrSnCr m _ => m = n
  | .cmdOpenTcp m | .cmdOpenUdp m | .cmdOpenOther m | .cmdListen m | .cmdConnect m | .cmdDiscon m
  | .cmdClose m | .cmdSendMacraw m | .cmdSendTcp m | .cmdRecv m | .cmdUnlisted m _ => m = n
  | .cmdOpenMacraw | .pollVtcp => n = 0
  | .pollSocket m => m = n
  | .u2RdRom _ | .u2WrRom _ _ | .u2RdMode | .u2WrMode _ | .u2RdArh | .u2WrArh _ | .u2RdArl | .u2WrArl _
  | .u2RdData | .u2WrData _ | .u2RdUnassignedLow _ | .u2RdUnassignedHigh _ | .u2WrUnassignedLow _ _
  | .u2WrUnassignedHigh _ _ => False
  | .imgRdInvalid _ | .imgRdRxwin _ _ | .imgRdPlain _ | .imgWrInvalid _ _ | .imgWrMode _
  | .imgWrPlain _ _ => False
  | .piaRdRom _ | .piaWrRom _ _ | .piaRdOra | .piaWrOra _ | .piaRdDdra | .piaWrDdra _ | .piaRdCra
  | .piaWrCra _ | .piaRdOrb | .piaWrOrb _ | .piaRdDdrb | .piaWrDdrb _ | .piaRdCrb | .piaWrCrb _
  | .piaRdUnassignedLow _ | .piaRdUnassignedHigh _ | .piaWrUnassignedLow _ _
  | .piaWrUnassignedHigh _ _ => False
  | .u2SetSlot _ | .mouseSetSlot _ | .mouseSetPosition _ _ | .mouseSetButton _ | .mouseGetState => False

end Sys2Proof.Machine
end

