-- ==== Sys2Proof/Certificates/Slice0/Obligations.lean ====
section
/-! DEFINITION. The statements for the provers. Each docstring says which rule of spec/ a statement formalises; where it rests on a choice of the model or on a decision of the spec, it says so and names the log entry or the decision. -/

open Sys2Proof Sys2Proof.Machine

/-! ## Encoding -/

/-- Words written out from the encodings of files 30, 40, 41 and 43 decode to the operations they stand
for, and a word with bit 16 set to none. The access word is the spec's own packing (D1); which word a
table row with 8 or 16 bits stands for is the model's choice (log 3). -/
def Obligations.TableWordsDecode : Prop :=
  decodeTableWord 24 0x20402 = some (.u2WrMode 0x02) ∧ decodeTableWord 24 0x00700 = some .u2RdData
    ∧ decodeTableWord 24 0x40500 = some (.u2RdRom 0x05) ∧ decodeTableWord 24 0xA0104 = some (.piaWrCra 0x04)
    ∧ decodeTableWord 24 0x80000 = some .piaRdDdra ∧ decodeTableWord 24 0xC0500 = some (.piaRdRom 0x05)
    ∧ decodeTableWord 16 0x0421 = some (.imgRdTxFsr 0 true) ∧ decodeTableWord 16 0x6001 = some (.imgRdRxwin 0 1)
    ∧ decodeTableWord 8 0x08 = some (.cmdDiscon 0) ∧ decodeTableWord 24 0x10000 = none

/-- The access word of 30 R122, bit by bit: a word encodes an access exactly if bits 23..20 and bit 16
are 0, a read has no value and a soft switch is at most 15, and then its fields are bits 19, 18, 17,
15..8 and 7..0; with the examples of the rule. The packing is the spec's own (D1). -/
def Obligations.AccessWordLayout : Prop :=
  (∀ (w : BitVec 24) (a : Access), unpackAccess w = .ok a ↔
    w.extractLsb' 20 4 = 0 ∧ w.getLsbD 16 = false ∧ (a.rw = false → a.val = 0)
      ∧ (a.space = false → a.off.extractLsb' 4 4 = 0)
      ∧ a.card = w.getLsbD 19 ∧ a.space = w.getLsbD 18 ∧ a.rw = w.getLsbD 17
      ∧ a.off = w.extractLsb' 8 8 ∧ a.val = w.extractLsb' 0 8)
    ∧ unpackAccess 0x20402 = .ok ⟨false, false, true, 4, 0x02⟩
    ∧ unpackAccess 0x00700 = .ok ⟨false, false, false, 7, 0⟩
    ∧ unpackAccess 0x40500 = .ok ⟨false, true, false, 5, 0⟩
    ∧ unpackAccess 0xA0104 = .ok ⟨true, false, true, 1, 0x04⟩
    ∧ unpackAccess 0x80000 = .ok ⟨true, false, false, 0, 0⟩
    ∧ unpackAccess 0xC0500 = .ok ⟨true, true, false, 5, 0⟩

/-- Decode and encode agree on every operation: a well-formed operation that the conditions select,
encoded with the register-select map of the conditions, decodes to itself, with every operand at every
value. The conditions are the spec's own (30 R151, 41 R200; log 4). -/
def Obligations.EncodeThenDecode : Prop :=
  ∀ (c : Cond) (i : Instr), WellFormed i = true → c.rsMap.onto = true → c.selects i = true →
    decode c (encode c.rsMap i) = .ok i

/-- The other direction, under the conditions of a state: what a request decodes to is well formed, is
the row that the state selects, and encodes to that very request, so no two requests stand for one
operation. -/
def Obligations.DecodeThenEncode : Prop :=
  ∀ (s : State) (r : Request) (i : Instr), s.params.rsMap.onto = true →
    decode (s.cond r.socket) r = .ok i →
    WellFormed i = true ∧ (s.cond r.socket).selects i = true ∧ encode s.params.rsMap i = r

/-- The classes of the bus-read path and of the bus-write path, in the orders of 40 R170 and R180. -/
def Obligations.ImageClasses : Prop :=
  (∀ a : Word16,
    (0x8000 ≤ a.toNat → decodeImageRead a = .imgRdInvalid (BitVec.ofNat 15 (a.toNat - 0x8000)))
      ∧ (∀ (n : SockId) (o : Byte), a.toNat = sockBase n + o.toNat →
          decodeImageRead a =
            if o = 0x20 ∨ o = 0x21 then .imgRdTxFsr n (o == 0x21)
            else if o = 0x26 ∨ o = 0x27 then .imgRdRxRsr n (o == 0x27)
            else .imgRdSockreg n o)
      ∧ (∀ (n : SockId) (i : BitVec 11), a.toNat = rxBase n + i.toNat → decodeImageRead a = .imgRdRxwin n i)
      ∧ (a.toNat < 0x400 ∨ (0x800 ≤ a.toNat ∧ a.toNat < 0x6000) →
          decodeImageRead a = .imgRdPlain (BitVec.ofNat 15 a.toNat)))
    ∧ ∀ (a : Word16) (v : Byte),
    (0x8000 ≤ a.toNat → decodeImageWrite a v = .imgWrInvalid (BitVec.ofNat 15 (a.toNat - 0x8000)) v)
      ∧ (a.toNat = 0 → decodeImageWrite a v = .imgWrMode v)
      ∧ (∀ n : SockId, a.toNat = snCr n → decodeImageWrite a v = .imgWrSnCr n v)
      ∧ (0 < a.toNat → a.toNat < 0x8000 → (∀ n : SockId, a.toNat ≠ snCr n) →
          decodeImageWrite a v = .imgWrPlain (BitVec.ofNat 15 a.toNat) v)

/-! ## The step -/

/-- A step runs the operation that the next request decodes to, in the state with the request taken; with
no request nothing changes; a request that is no operation is refused; and the request of
`withFetchWord` is the next one. The list of requests is the model's own (log 1, 22). -/
def Obligations.StepRunsTheRequest : Prop :=
  ∀ s : State,
    (s.pending = [] → step s = .next s)
      ∧ (∀ r rest i, s.pending = r :: rest → decode (s.cond r.socket) r = .ok i →
          step s = exec i { s with pending := rest, started := s.started || r.isAccess })
      ∧ (∀ r rest e, s.pending = r :: rest → decode (s.cond r.socket) r = .error e →
          step s = .refused (.badRequest e))
      ∧ (∀ nbits w i, decode (s.cond (Request.ofTableWord nbits w).socket) (Request.ofTableWord nbits w) = .ok i →
          step (s.withFetchWord nbits w) = exec i { s with started := true })

/-- Exactly where a step is refused, and under which name: the request is no operation (93 U11); or its
operation, in the state with the request taken, carries out RECV with a position beyond the staged data (93
U4) or on a MACRAW socket whose tail is below its head (93 U14), or reads Sn_RX_RSR where the polls leave such
a socket (93 U14), or is a slot call after the start (93 U12) or for the slot that the other card has (D38;
log 22). Never for want of a meaning. -/
def Obligations.StepStops : Prop :=
  ∀ (s : State) (x : Refusal), step s = .refused x ↔ ∃ r rest, s.pending = r :: rest
    ∧ let t := s.take r rest
      (∃ e, decode (s.cond r.socket) r = .error e ∧ x = .badRequest e)
      ∨ ∃ i, decode (s.cond r.socket) r = .ok i
        ∧ ((∃ n fill, runsRecv t n i ∧ (t.sock n).rsr = some fill ∧ fill < t.recvDelta n ∧ x = .recvBeyondStaged)
          ∨ (∃ n, runsRecv t n i ∧ (t.sock n).tailBelowHead ∧ x = .macrawTailBelowHead)
          ∨ (∃ n, readsRsr t n i ∧ ((t.pagePoll n).sock n).tailBelowHead ∧ x = .macrawTailBelowHead)
          ∨ (∃ k, (i = .u2SetSlot k ∨ i = .mouseSetSlot k) ∧ t.started = true ∧ x = .slotAfterStart)
          ∨ (∃ k, ((i = .u2SetSlot k ∧ t.params.mouseSlot = some k.toNat)
              ∨ (i = .mouseSetSlot k ∧ t.params.u2Slot = some k.toNat)) ∧ t.started = false ∧ x = .slotTaken))

/-! ## The Uthernet II card's switches -/

/-- 40 R161: the identification bytes of the card's ROM window, whatever the state, and the access words of
its reads. -/
def Obligations.CardRomReads : Prop :=
  ∀ (p : Byte) (s : State),
    exec (.u2RdRom p) s =
        .next { s with delivered := some (if p = 0x05 then 0x38 else if p = 0x07 then 0x18 else 0x00) }
      ∧ ∀ c, decode c (.bus (BitVec.ofNat 24 (0x40000 + 0x100 * p.toNat))) = .ok (.u2RdRom p)

/-- 40 R163 to R167, R178: the two halves of the pointer, written and read; the mode switch reads the mode
byte; the unassigned switches read 0; nothing else changes. The reads are the spec's decisions (D3, D4). -/
def Obligations.SwitchesRead : Prop :=
  ∀ (v : Byte) (s : State),
    exec (.u2WrArh v) s = .next { s with addrPtr := v ++ s.addrPtr.extractLsb' 0 8 }
      ∧ exec (.u2WrArl v) s = .next { s with addrPtr := s.addrPtr.extractLsb' 8 8 ++ v }
      ∧ exec .u2RdArh s = .next { s with delivered := some (s.addrPtr.extractLsb' 8 8) }
      ∧ exec .u2RdArl s = .next { s with delivered := some (s.addrPtr.extractLsb' 0 8) }
      ∧ exec .u2RdMode s = .next { s with delivered := some (s.peek 0) }
      ∧ (∀ p, exec (.u2RdUnassignedLow p) s = .next { s with delivered := some 0 })
      ∧ (∀ p, exec (.u2RdUnassignedHigh p) s = .next { s with delivered := some 0 })

/-- Writes that change nothing: both ROM windows (40 R177, 43 R272) and the unassigned switches of both
cards (40 R179, 43 R286). These are the spec's decisions (D4, D5). -/
def Obligations.IgnoredWrites : Prop :=
  ∀ (p v : Byte) (l : BitVec 2) (h : BitVec 3) (s : State),
    exec (.u2WrRom p v) s = .next s ∧ exec (.u2WrUnassignedLow l v) s = .next s
      ∧ exec (.u2WrUnassignedHigh h v) s = .next s ∧ exec (.piaWrRom p v) s = .next s
      ∧ exec (.piaWrUnassignedLow l v) s = .next s ∧ exec (.piaWrUnassignedHigh h v) s = .next s

/-- A mode write is the same from both paths. With bit 7 clear it stores the byte at image address 0 and
changes nothing else (40 R162, R182). With bit 7 set it resets the card and then stores the low seven bits
(70 R390, D9, D10): image, sockets and environment state as after power-on, every host handle closed once
in the order of 70 R390 (a), the pointer a free value (log 6), the mouse card and all else untouched. -/
def Obligations.ModeWrites : Prop :=
  ∀ (v : Byte) (s : State),
    (v.getLsbD 7 = false →
      ∃ t, exec (.u2WrMode v) s = .next t ∧ exec (.imgWrMode v) s = .next t
        ∧ t.peek 0 = v ∧ s.keepsOutside t (· = 0) ∧ { t with mem := s.mem } = s)
    ∧ (v.getLsbD 7 = true →
    ∃ t, exec (.u2WrMode v) s = .next t ∧ exec (.imgWrMode v) s = .next t
      ∧ t.peek 0 = v &&& 0x7F ∧ State.reset.keepsOutside t (· = 0)
      ∧ (∀ n, t.sock n = Sock.reset) ∧ t.venv = State.reset.venv
      ∧ t.addrPtr = Config.addrPtrAfterReset s.resets ∧ t.resets = s.resets + 1
      ∧ t.envLog =
        ((s.socks.handles ++ s.venv.handle.toList).filter (3 ≤ ·)).reverse.map EnvCall.close ++ s.envLog
      ∧ { t with mem := s.mem, socks := s.socks, venv := s.venv, addrPtr := s.addrPtr,
                 resets := s.resets, envLog := s.envLog } = s)

/-- 70 R391: after the write that triggers a reset, from either path, and after power-on, every socket
status is CLOSED, every pointer register equals its bank base, and the next access reads a mode byte (image address 0) whose
bit 7 is 0. -/
def Obligations.ResetComplete : Prop :=
  ∀ (v : Byte) (s : State), v.getLsbD 7 = true →
    ∃ t, exec (.u2WrMode v) s = .next t ∧ exec (.imgWrMode v) s = .next t
      ∧ (∃ b : Byte, exec (.imgRdPlain 0) t = .next { t with delivered := some b } ∧ b.getLsbD 7 = false)
      ∧ ∀ u, (u = t ∨ u = State.reset) → (u.peek 0).getLsbD 7 = false ∧ ∀ n : SockId, u.status n = 0x00
        ∧ u.get16 (snTxRd n) = BitVec.ofNat 16 (txBase n) ∧ u.get16 (snTxWr n) = BitVec.ofNat 16 (txBase n)
        ∧ u.get16 (snRxRd n) = BitVec.ofNat 16 (rxBase n)

/-- The power-on state. The Uthernet II card (10 R75): the seeds of the common registers, the pointers, and
every other byte 0; sockets and environment state empty (D9); the pointer's value is the model's choice
(log 5) and is not stated. The mouse card (10 R76, D25 to D27), and its fallback ROM (43 R284, D28). -/
def Obligations.PowerOnState : Prop :=
  let z := State.reset
  z.getIp 0x0001 = 0xC0A80101 ∧ z.getIp 0x0005 = 0xFFFFFF00 ∧ z.getIp 0x000F = 0xC0A80164
    ∧ z.get16 0x0009 = 0x0200 ∧ z.get16 0x000B = 0xDEAD ∧ z.get16 0x000D = 0xBEEF
    ∧ z.get16 0x0017 = 0x07D0 ∧ z.peek 0x0019 = 0x08 ∧ z.peek 0x001A = 0x55 ∧ z.peek 0x001B = 0x55
    ∧ (∀ n : SockId, z.get16 (snTxRd n) = BitVec.ofNat 16 (0x4000 + 0x800 * n.val)
        ∧ z.get16 (snTxWr n) = BitVec.ofNat 16 (0x4000 + 0x800 * n.val)
        ∧ z.get16 (snRxRd n) = BitVec.ofNat 16 (0x6000 + 0x800 * n.val))
    ∧ (∀ a, ¬ (0x0001 ≤ a ∧ a ≤ 0x0012) → ¬ (0x0017 ≤ a ∧ a ≤ 0x001B) →
        (∀ n : SockId, ¬ (snTxRd n ≤ a ∧ a ≤ snTxRd n + 3) ∧ ¬ regBytes (snRxRd n) a) → z.peek a = 0)
    ∧ (∀ n : SockId, z.sock n =
        { handle := none, connecting := false, staging := [], rxHead := 0, rxTail := 0, macraw := false }
        ∧ ∀ i, (z.sock n).staging.read stagingDefault i = 0)
    ∧ z.venv = { dhcpState := .idle, dhcpXid := 0, clientMac := 0, vtcp := none }
    ∧ z.pia = { ora := 0, orb := 0, ddra := 0, ddrb := 0, cra := 0, crb := 0 }
    ∧ z.mouse =
      { dx := 0, dy := 0, x := 512, y := 512, button := false, xphase := false, yphase := false }
    ∧ z.romByte 0x005 = 0x38 ∧ z.romByte 0x007 = 0x18 ∧ z.romByte 0x00B = 0x01
    ∧ z.romByte 0x00C = 0x20 ∧ z.romByte 0x0FB = 0xD6 ∧ z.romByte 0x01C = 0x60
    ∧ (∀ i, 0x012 ≤ i → i ≤ 0x019 → z.romByte i = 0x60)
    ∧ ∀ i, i ∉ [0x005, 0x007, 0x00B, 0x00C, 0x01C, 0x0FB] → ¬ (0x012 ≤ i ∧ i ≤ 0x019) →
      z.romByte i = 0x00

/-! ## The image -/

/-- 40 R175: a read outside the invalid range, the socket pages and the RX windows returns the stored
byte, with no side effect. -/
def Obligations.PlainRead : Prop :=
  ∀ (a : Nat) (s : State), a < 0x400 ∨ (0x800 ≤ a ∧ a < 0x6000) →
    decodeImageRead (BitVec.ofNat 16 a) = .imgRdPlain (BitVec.ofNat 15 a)
      ∧ exec (.imgRdPlain (BitVec.ofNat 15 a)) s = .next { s with delivered := some (s.peek a) }

/-- 40 R174: a read of an RX window returns the staging byte at the window offset, with no side effect.
-/
def Obligations.WindowRead : Prop :=
  ∀ (n : SockId) (i : BitVec 11) (s : State),
    decodeImageRead (BitVec.ofNat 16 (rxBase n + i.toNat)) = .imgRdRxwin n i
      ∧ exec (.imgRdRxwin n i) s =
        .next { s with delivered := some ((s.sock n).staging.read stagingDefault i.toNat) }

/-- 40 R171, R181: image addresses of 0x8000 or more read 0 and lose writes, with no state change, and
the Data port's post-increment still applies (60 R362); that it goes modulo 0x8000 from such a pointer too is
the spec's decision D7 (40 R169). -/
def Obligations.InvalidAddresses : Prop :=
  ∀ (a : BitVec 15) (v : Byte) (s : State),
    decodeImageRead (BitVec.ofNat 16 (0x8000 + a.toNat)) = .imgRdInvalid a
      ∧ decodeImageWrite (BitVec.ofNat 16 (0x8000 + a.toNat)) v = .imgWrInvalid a v
      ∧ exec (.imgRdInvalid a) s = .next { s with delivered := some 0 } ∧ exec (.imgWrInvalid a v) s = .next s
      ∧ (s.addrPtr.toNat = 0x8000 + a.toNat →
          exec .u2RdData s = .next { s with delivered := some 0, addrPtr := nextPtr (s.peek 0) s.addrPtr }
            ∧ exec (.u2WrData v) s = .next { s with addrPtr := nextPtr (s.peek 0) s.addrPtr })

/-- 40 R184, R185: a write anywhere else stores the byte at the address and changes nothing else. -/
def Obligations.PlainWrite : Prop :=
  ∀ (a : BitVec 15) (v : Byte) (s : State),
    (WellFormed (.imgWrPlain a v) = true → decodeImageWrite (BitVec.ofNat 16 a.toNat) v = .imgWrPlain a v)
      ∧ ∃ t, exec (.imgWrPlain a v) s = .next t
        ∧ t.peek a.toNat = v ∧ s.keepsOutside t (· = a.toNat) ∧ { t with mem := s.mem } = s

/-- 40 R168, R169: a read of the Data port is the image read at the pointer, then the post-increment,
decided by the mode byte as it then is (D6). It completes unless the address is Sn_RX_RSR of a socket whose
fill level has no value (93 U14). -/
def Obligations.DataPortReads : Prop :=
  ∀ s : State,
    ((∀ n low, decodeImageRead s.addrPtr = .imgRdRxRsr n low → s.fillDefined n) →
      ∃ t, exec (decodeImageRead s.addrPtr) s = .next t
        ∧ exec .u2RdData s = .next { t with addrPtr := nextPtr (t.peek 0) t.addrPtr })
      ∧ ∀ x, exec (decodeImageRead s.addrPtr) s = .refused x → exec .u2RdData s = .refused x

/-- 40 R176, R169: a write of the Data port is the image write at the pointer, then the post-increment,
decided by the mode byte as it then is (D6). It completes unless it is a RECV that the spec has a model
refuse (93 U4, U14). -/
def Obligations.DataPortWrites : Prop :=
  ∀ (v : Byte) (s : State),
    ((∀ n, decodeImageWrite s.addrPtr v = .imgWrSnCr n v → v = 0x40 → s.recvReady n) →
      ∃ t, exec (decodeImageWrite s.addrPtr v) s = .next t
        ∧ exec (.u2WrData v) s = .next { t with addrPtr := nextPtr (t.peek 0) t.addrPtr })
      ∧ ∀ x, exec (decodeImageWrite s.addrPtr v) s = .refused x → exec (.u2WrData v) s = .refused x

/-- 10 R24: in any run of Data accesses with AI on after each of them and no reset, the access after the
`k`-th is made at `(a + k) mod 0x8000`, with `a` the pointer before the first; a Data access that is no
reset moves the pointer so if AI is on, and not otherwise; and nothing else moves it but the two address
switches and a reset, after which it is unspecified (10 R75). That the mode byte after the access decides is
the spec's decision D6. -/
def Obligations.AutoIncrementLaw : Prop :=
  (∀ (s : State) (l rest : List Request), s.pending = l ++ rest → (∀ r ∈ l, isDataAccess r) →
    (∀ k t, 1 ≤ k → k ≤ l.length → Host.Core.run core k s = .next t →
      t.autoInc = true ∧ t.resets = s.resets) →
    ∀ k t, 1 ≤ k → k ≤ l.length → Host.Core.run core k s = .next t →
      t.addrPtr = BitVec.ofNat 16 ((s.addrPtr.toNat + k) % 0x8000) ∧ t.pending = l.drop k ++ rest)
    ∧ (∀ (v : Byte) (s t : State), exec .u2RdData s = .next t ∨ exec (.u2WrData v) s = .next t →
      t.resets = s.resets →
      t.addrPtr = if t.autoInc then BitVec.ofNat 16 ((s.addrPtr.toNat + 1) % 0x8000) else s.addrPtr)
    ∧ ∀ (i : Instr) (s t : State), exec i s = .next t → t.addrPtr ≠ s.addrPtr →
      i = .u2RdData ∨ (∃ v, i = .u2WrData v) ∨ (∃ v, i = .u2WrArh v) ∨ (∃ v, i = .u2WrArl v)
        ∨ t.resets = s.resets + 1

/-- 40 R172: a read of a socket's page runs the socket's poll, then the poll of the virtual TCP flow if
the socket is in MACRAW mode, and returns the stored byte as it then is; it always completes. -/
def Obligations.PageRead : Prop :=
  ∀ (n : SockId) (o : Byte) (s : State),
    ∃ t u, exec (.pollSocket n) s = .next t ∧ (if (t.sock n).macraw then exec .pollVtcp t else .next t) = .next u
      ∧ (WellFormed (.imgRdSockreg n o) = true →
          exec (.imgRdSockreg n o) s = .next { u with delivered := some (u.peek (sockBase n + o.toNat)) })

/-- 10 R52, 40 R173, R77 (I3): Sn_TX_FSR reads 2048 less the bytes between the TX pointers, after the
polls, most significant byte at the even address (D8); the read stores nothing of it (D32). -/
def Obligations.TxFreeSize : Prop :=
  ∀ (n : SockId) (low : Bool) (s : State),
    ∃ t f, exec (.imgRdTxFsr n low) s = .next t
      ∧ f + ((s.get16 (snTxWr n)).toNat + 65536 - (s.get16 (snTxRd n)).toNat) % 2048 = 2048
      ∧ t.delivered = some (if low then BitVec.ofNat 8 f else BitVec.ofNat 8 (f / 256))
      ∧ { t with delivered := s.delivered } = s.pagePoll n ∧ s.keepsOutside t (· = snSr n)

/-- 10 R55, 40 R173: Sn_RX_RSR reads the fill level of the staging buffer after the polls, most
significant byte at the even address (D8), where it has a value; elsewhere the model refuses, as 93 U14
says (log 21). -/
def Obligations.RxReceivedSize : Prop :=
  ∀ (n : SockId) (low : Bool) (s : State),
    (s.fillDefined n → ∃ t f, exec (.imgRdRxRsr n low) s = .next t
      ∧ ((t.sock n).macraw = true → f + (t.sock n).rxHead = (t.sock n).rxTail)
      ∧ ((t.sock n).macraw = false →
          (f : Int) = (((t.sock n).rxTail : Int) - ((t.sock n).rxHead : Int)) % 2048)
      ∧ t.delivered = some (if low then BitVec.ofNat 8 f else BitVec.ofNat 8 (f / 256))
      ∧ { t with delivered := s.delivered } = s.pagePoll n ∧ s.keepsOutside t (· = snSr n))
      ∧ (((s.pagePoll n).sock n).macraw = true →
          ((s.pagePoll n).sock n).rxTail < ((s.pagePoll n).sock n).rxHead →
          exec (.imgRdRxRsr n low) s = .refused .macrawTailBelowHead)

/-- 40 R183: a write of a command register carries out the whole command that the byte starts, then
stores 0 in the register; `v` itself is never stored. It completes unless it is a RECV that the spec has a
model refuse (93 U4, U14). -/
def Obligations.CommandRegisterWrite : Prop :=
  ∀ (n : SockId) (v : Byte) (s : State),
    ((v = 0x40 → s.recvReady n) →
      ∃ t u, exec (decodeCommand (s.cond n) n v) s = .next t ∧ exec (.imgWrSnCr n v) s = .next u
        ∧ u.peek (snCr n) = 0 ∧ t.keepsOutside u (· = snCr n) ∧ { u with mem := t.mem } = t)
      ∧ ∀ x, exec (decodeCommand (s.cond n) n v) s = .refused x → exec (.imgWrSnCr n v) s = .refused x

/-! ## Commands -/

/-- 41 R200: which operation each command byte starts, by the protocol code and the status; and what
starts nothing: OPEN with another protocol code, an unlisted byte, a listed command whose precondition is
not met (41 R211, R212, R213, the spec's decision D12). -/
def Obligations.DispatcherTable : Prop :=
  ∀ (n : SockId) (c : Byte) (s : State),
    let i := decodeCommand (s.cond n) n c
    let p := s.peek (sockBase n) &&& s.params.mrMask
    (c = 0x01 → i = if p = 0x01 then .cmdOpenTcp n else if p = s.params.mrUdp then .cmdOpenUdp n
        else if p = s.params.mrMacraw ∧ n = 0 then .cmdOpenMacraw else .cmdOpenOther n)
      ∧ (c = 0x02 → if s.status n = 0x13 then i = .cmdListen n else exec i s = .next s)
      ∧ (c = 0x04 → if s.status n = 0x13 then i = .cmdConnect n else exec i s = .next s)
      ∧ (c = 0x08 → i = .cmdDiscon n) ∧ (c = 0x10 → i = .cmdClose n)
      ∧ (c = 0x20 → if s.status n = 0x42 then i = .cmdSendMacraw n
          else if s.status n = 0x17 then i = .cmdSendTcp n else exec i s = .next s)
      ∧ (c = 0x40 → i = .cmdRecv n)
      ∧ (c ∉ [0x01, 0x02, 0x04, 0x08, 0x10, 0x20, 0x40] → i = .cmdUnlisted n c)
      ∧ exec (.cmdOpenOther n) s = .next s ∧ exec (.cmdUnlisted n c) s = .next s
      ∧ (s.status n ≠ 0x13 → exec (.cmdListen n) s = .next s ∧ exec (.cmdConnect n) s = .next s)
      ∧ (s.status n ≠ 0x17 → exec (.cmdSendTcp n) s = .next s)
      ∧ (s.status n ≠ 0x42 → exec (.cmdSendMacraw n) s = .next s)

/-- 41 R201, R202, R203: OPEN releases the socket first (D14). With TCP or UDP it asks the host for a stream
or a datagram socket, and leaves INIT or UDP with a fresh handle, or CLOSED with none. With MACRAW it makes
no host call, sets the flag and the status, and clears neither the staging buffer nor its head and tail. -/
def Obligations.OpenCommands : Prop :=
  ∀ (n : SockId) (s : State),
    (∃ t, exec (.cmdOpenTcp n) s = .next t ∧ s.openedAs t n .openStream 0x13)
      ∧ (∃ t, exec (.cmdOpenUdp n) s = .next t ∧ s.openedAs t n .openDgram 0x22)
      ∧ ∃ t, exec .cmdOpenMacraw s = .next t ∧ t.status 0 = 0x42
        ∧ t.sock 0 = { s.sock 0 with handle := none, connecting := false, macraw := true }
        ∧ s.onlySocket t 0 (· = snSr 0) ∧ s.drawn t 0 ∧ t.envLog = s.closes 0 ++ s.envLog

/-- 41 R205: LISTEN in INIT binds to Sn_PORT with backlog 1 and leaves LISTEN; where the host fails, or
there is no handle, a draw decides between nothing changed and the socket released and CLOSED (93 U2). -/
def Obligations.ListenInInit : Prop :=
  ∀ (n : SockId) (s : State), s.status n = 0x13 →
    (∀ h, (s.sock n).handle = some h → (s.answerAt 0).isOk = true →
      ∃ t, exec (.cmdListen n) s = .next t ∧ t.status n = 0x14 ∧ t.sock n = s.sock n
        ∧ s.onlySocket t n (· = snSr n) ∧ s.drawn t 1
        ∧ t.envLog = .bindListen h (s.get16 (snPort n)) 1 :: s.envLog)
      ∧ ∀ k calls, ((s.sock n).handle = none ∧ k = 0 ∧ calls = [])
          ∨ (∃ h, (s.sock n).handle = some h ∧ (s.answerAt 0).isOk = false ∧ k = 1
            ∧ calls = [.bindListen h (s.get16 (snPort n)) 1]) →
        ((s.answerAt k).isClose = false →
          ∃ t, exec (.cmdListen n) s = .next t ∧ s.keepsImage t ∧ t.sock n = s.sock n
            ∧ s.onlySocket t n (fun _ => False) ∧ s.drawn t (k + 1) ∧ t.envLog = calls ++ s.envLog)
        ∧ ((s.answerAt k).isClose = true →
          ∃ t, exec (.cmdListen n) s = .next t ∧ t.status n = 0x00
            ∧ t.sock n = { s.sock n with handle := none, connecting := false }
            ∧ s.onlySocket t n (· = snSr n) ∧ s.drawn t (k + 1)
            ∧ t.envLog = s.closes n ++ calls ++ s.envLog)

/-- 41 R204: CONNECT in INIT asks the host to connect to the redirected Sn_DIPR and Sn_DPORT; at once it
leaves ESTABLISHED, in progress SYNSENT with the flag set, failed (or with no handle) CLOSED and released.
-/
def Obligations.ConnectInInit : Prop :=
  ∀ (n : SockId) (s : State), s.status n = 0x13 →
    ∃ t, exec (.cmdConnect n) s = .next t ∧ s.onlySocket t n (· = snSr n)
      ∧ ((s.sock n).handle = none → t.status n = 0x00
          ∧ t.sock n = { s.sock n with handle := none, connecting := false } ∧ s.drawn t 0
          ∧ t.envLog = s.envLog)
      ∧ ∀ h, (s.sock n).handle = some h →
        s.drawn t 1
        ∧ (((s.answerAt 0).asConnect = .immediate ∧ t.status n = 0x17 ∧ t.sock n = s.sock n
              ∧ t.envLog = .connect h (redirect (s.getIp (snDipr n))) (s.get16 (snDport n)) :: s.envLog)
          ∨ ((s.answerAt 0).asConnect = .inProgress ∧ t.status n = 0x15
              ∧ t.sock n = { s.sock n with connecting := true }
              ∧ t.envLog = .connect h (redirect (s.getIp (snDipr n))) (s.get16 (snDport n)) :: s.envLog)
          ∨ ((s.answerAt 0).asConnect = .fail ∧ t.status n = 0x00
              ∧ t.sock n = { s.sock n with handle := none, connecting := false }
              ∧ t.envLog = s.closes n
                ++ .connect h (redirect (s.getIp (snDipr n))) (s.get16 (snDport n)) :: s.envLog))

/-- 41 R214: destinations in 192.168.64 and 192.168.65 are 127.0.0.1, all others themselves, and the rule
applied twice is the rule applied once. -/
def Obligations.RedirectRule : Prop :=
  (∀ a b c d : Byte, redirect (ipOf a b c d) =
    if a = 192 ∧ b = 168 ∧ (c = 64 ∨ c = 65) then ipOf 127 0 0 1 else ipOf a b c d)
    ∧ ∀ ip : Ip, redirect (redirect ip) = redirect ip

/-- 41 R206, R207: DISCON and CLOSE are one operation: the handle closed, head and tail 0, the flags
dropped, CLOSED; the staging bytes and the pointer registers keep their values (D13). -/
def Obligations.CloseSocket : Prop :=
  ∀ (n : SockId) (s : State), ∃ t, exec (.cmdDiscon n) s = .next t ∧ exec (.cmdClose n) s = .next t
    ∧ t.status n = 0x00
    ∧ t.sock n = { s.sock n with
        handle := none, connecting := false, rxHead := 0, rxTail := 0, macraw := false }
    ∧ s.onlySocket t n (· = snSr n) ∧ s.drawn t 0 ∧ t.envLog = s.closes n ++ s.envLog

/-- 41 R208: SEND in ESTABLISHED hands the host the bytes between Sn_TX_RD and Sn_TX_WR, read from the
ring modulo 2048, and advances Sn_TX_RD by what the host took, modulo 65536; the status stays (D20). -/
def Obligations.SendTcp : Prop :=
  ∀ (n : SockId) (s : State), s.status n = 0x17 →
    s.txLen n = ((s.get16 (snTxWr n)).toNat + 65536 - (s.get16 (snTxRd n)).toNat) % 2048
      ∧ (s.txData n).length = s.txLen n
      ∧ (∀ i, i < s.txLen n →
          (s.txData n)[i]? = some (s.peek (txBase n + ((s.get16 (snTxRd n)).toNat + i) % 2048)))
      ∧ ∃ t k, exec (.cmdSendTcp n) s = .next t ∧ k ≤ s.txLen n
        ∧ t.get16 (snTxRd n) = s.get16 (snTxRd n) + BitVec.ofNat 16 k
        ∧ t.sock n = s.sock n ∧ s.onlySocket t n (regBytes (snTxRd n))
        ∧ ((s.sock n).handle = none ∨ s.txLen n = 0 → k = 0 ∧ s.drawn t 0 ∧ t.envLog = s.envLog)
        ∧ ∀ h, (s.sock n).handle = some h → s.txLen n ≠ 0 →
          k = (s.answerAt 0).asCount (s.txLen n) ∧ s.drawn t 1 ∧ t.envLog = .send h (s.txData n) :: s.envLog

/-- 41 R209: SEND in MACRAW drains the ring in every case (D19); a length of 0 or above 1600 does nothing
more; otherwise the frame goes to the virtual layer and all its replies are staged before the command ends.
-/
def Obligations.SendMacraw : Prop :=
  ∀ (n : SockId) (s : State), s.status n = 0x42 →
    ∃ t, exec (.cmdSendMacraw n) s = .next t ∧ t.get16 (snTxRd n) = s.get16 (snTxWr n) ∧ t.status n = 0x42
      ∧ s.keepsOutside t (fun a => regBytes (snTxRd n) a ∨ leaseByte a) ∧ s.keepsOthers t n
      ∧ t.aside = s.aside
      ∧ ((s.txLen n = 0 ∨ 1600 < s.txLen n) →
          s.onlySocket t n (regBytes (snTxRd n)) ∧ t.sock n = s.sock n ∧ s.drawn t 0 ∧ t.envLog = s.envLog)
      ∧ (1 ≤ s.txLen n → s.txLen n ≤ 1600 →
          ∃ frames u, (s.put16 (snTxRd n) (s.get16 (snTxWr n))).vnetFrame (s.txData n) = (frames, u)
            ∧ (∀ f ∈ frames, f ≠ []) ∧ u.sock n = s.sock n ∧ t = u.rxInjectAll n frames
            ∧ .vnetFrame (s.txData n) ∈ t.envLog)

/-- 41 R210: RECV with its precondition `delta <= fill` moves the head by the distance to the position
Sn_RX_RD names (D16); an emptied buffer goes back to head and tail 0 and Sn_RX_RD to the bank base. No
host call, no other change. Without it the spec has a model refuse (93 U4 and U14; log 20, 21). -/
def Obligations.RecvAdvances : Prop :=
  ∀ (n : SockId) (s : State),
    let k := s.sock n
    let head := if k.macraw then k.rxHead + s.recvDelta n else (k.rxHead + s.recvDelta n) % 2048
    (s.recvReady n → ∃ t, exec (.cmdRecv n) s = .next t ∧ s.drawn t 0 ∧ t.envLog = s.envLog
      ∧ (head = k.rxTail → t.sock n = { k with rxHead := 0, rxTail := 0 }
          ∧ t.get16 (snRxRd n) = BitVec.ofNat 16 (rxBase n) ∧ s.onlySocket t n (regBytes (snRxRd n)))
      ∧ (head ≠ k.rxTail → t.sock n = { k with rxHead := head } ∧ s.keepsImage t
          ∧ s.onlySocket t n (fun _ => False)))
      ∧ (∀ fill, k.rsr = some fill → fill < s.recvDelta n → exec (.cmdRecv n) s = .refused .recvBeyondStaged)
      ∧ (k.macraw = true → k.rxTail < k.rxHead → exec (.cmdRecv n) s = .refused .macrawTailBelowHead)

/-- The delta of 41 R210, and what follows where software has read everything: after such a RECV
Sn_RX_RSR is 0, head and tail are 0, and Sn_RX_RD names the bank base. The reading of "the delta" is the
spec's decision D16. -/
def Obligations.RecvEmpties : Prop :=
  ∀ (n : SockId) (s : State),
    ((s.sock n).macraw = false → (s.recvDelta n : Int) =
        ((s.get16 (snRxRd n)).toNat - (rxBase n : Int) - ((s.sock n).rxHead : Int)) % 2048)
      ∧ ((s.sock n).macraw = true → (s.recvDelta n : Int) =
        ((s.get16 (snRxRd n)).toNat - (rxBase n : Int) - ((s.sock n).rxHead : Int)) % 65536)
      ∧ ((s.sock n).macraw = true ∨ (s.sock n).rxTail < 2048 → (s.sock n).rsr = some (s.recvDelta n) →
          ∃ t, exec (.cmdRecv n) s = .next t ∧ (t.sock n).rsr = some 0 ∧ (t.sock n).rxHead = 0
            ∧ (t.sock n).rxTail = 0 ∧ t.get16 (snRxRd n) = BitVec.ofNat 16 (rxBase n))

/-! ## Polls -/

/-- 42 R240, R266: a poll always completes; it writes no image byte but the status, no other socket, no
environment state, and neither the head nor the MACRAW flag. With no handle it does nothing; nor, with no
connect in progress, in any status but ESTABLISHED and LISTEN (42 R246). -/
def Obligations.PollFrame : Prop :=
  ∀ (n : SockId) (s : State), ∃ t, exec (.pollSocket n) s = .next t ∧ s.onlySocket t n (· = snSr n)
    ∧ (t.sock n).rxHead = (s.sock n).rxHead ∧ (t.sock n).macraw = (s.sock n).macraw
    ∧ ((s.sock n).handle = none
        ∨ ((s.sock n).connecting = false ∧ s.status n ≠ 0x17 ∧ s.status n ≠ 0x14) → t = s)

/-- 42 R241: the outcome of a connect in progress: not writable, nothing; writable with no error,
ESTABLISHED, and the poll goes on from there with its receive step; with an error, CLOSED and released
(D21). -/
def Obligations.PollConnect : Prop :=
  ∀ (n : SockId) (h : Handle) (s : State), (s.sock n).handle = some h → (s.sock n).connecting = true →
    ((s.answerAt 0).isTrue = false → s.status n ≠ 0x17 → s.status n ≠ 0x14 →
      ∃ t, exec (.pollSocket n) s = .next t ∧ s.keepsImage t ∧ t.sock n = s.sock n
        ∧ s.onlySocket t n (fun _ => False) ∧ s.drawn t 1 ∧ t.envLog = .writable h :: s.envLog)
      ∧ ((s.answerAt 0).isTrue = true → (s.answerAt 1).isOk = true →
          ∃ u, exec (.pollSocket n) s = exec (.pollSocket n) u ∧ u.status n = 0x17
            ∧ u.sock n = { s.sock n with connecting := false } ∧ s.onlySocket u n (· = snSr n)
            ∧ s.drawn u 2 ∧ u.envLog = .soError h :: .writable h :: s.envLog)
      ∧ ((s.answerAt 0).isTrue = true → (s.answerAt 1).isOk = false →
          ∃ t, exec (.pollSocket n) s = .next t ∧ t.status n = 0x00
            ∧ t.sock n = { s.sock n with handle := none, connecting := false }
            ∧ s.onlySocket t n (· = snSr n) ∧ s.drawn t 2
            ∧ t.envLog = s.closes n ++ .soError h :: .writable h :: s.envLog)

/-- 42 R242: the receive step in ESTABLISHED: not readable, or a full ring, nothing; otherwise the host is
asked for at most the free bytes (D17), and what it gives is staged at the tail. -/
def Obligations.PollReceive : Prop :=
  ∀ (n : SockId) (h : Handle) (s : State), (s.sock n).handle = some h → (s.sock n).connecting = false →
    s.status n = 0x17 →
    let free := 2047 - ringFill (s.sock n).rxHead (s.sock n).rxTail
    (((s.answerAt 0).isTrue = false ∨ free = 0) →
      ∃ t, exec (.pollSocket n) s = .next t ∧ s.keepsImage t ∧ t.sock n = s.sock n
        ∧ s.onlySocket t n (fun _ => False) ∧ s.drawn t 1 ∧ t.envLog = .readable h :: s.envLog)
      ∧ ((s.answerAt 0).isTrue = true → 0 < free → (s.answerAt 1).asBytes free = none →
          ∃ t, exec (.pollSocket n) s = .next t ∧ s.keepsImage t ∧ t.sock n = s.sock n
            ∧ s.onlySocket t n (fun _ => False) ∧ s.drawn t 2
            ∧ t.envLog = .recv h free :: .readable h :: s.envLog)
      ∧ (∀ d, (s.answerAt 0).isTrue = true → 0 < free → (s.answerAt 1).asBytes free = some d → d ≠ [] →
          ∃ t, exec (.pollSocket n) s = .next t ∧ s.keepsImage t ∧ t.sock n = (s.stage n d).sock n
            ∧ d.length ≤ free ∧ s.onlySocket t n (fun _ => False) ∧ s.drawn t 2
            ∧ t.envLog = .recv h free :: .readable h :: s.envLog)

/-- 42 R244: a zero-byte read brings the socket to CLOSE_WAIT and releases its handle, which is closed on the
host (41 R216); head, tail and staged bytes are not touched. -/
def Obligations.PollPeerClosed : Prop :=
  ∀ (n : SockId) (h : Handle) (s : State), (s.sock n).handle = some h → (s.sock n).connecting = false →
    s.status n = 0x17 → (s.answerAt 0).isTrue = true →
    let free := 2047 - ringFill (s.sock n).rxHead (s.sock n).rxTail
    0 < free → (s.answerAt 1).asBytes free = some [] →
    ∃ t, exec (.pollSocket n) s = .next t ∧ t.status n = 0x1C
      ∧ t.sock n = { s.sock n with handle := none, connecting := false } ∧ s.onlySocket t n (· = snSr n)
      ∧ s.drawn t 2 ∧ t.envLog = s.closes n ++ .recv h free :: .readable h :: s.envLog

/-- 42 R243: staging at most the free bytes in the ring: each byte at its place modulo 2048, the bytes
still unread where they were, the fill level grown by the length. -/
def Obligations.StagingRing : Prop :=
  ∀ (n : SockId) (data : List Byte) (s : State),
    let k := s.sock n
    let fill := ringFill k.rxHead k.rxTail
    k.rxHead < 2048 → k.rxTail < 2048 → data.length ≤ 2047 - fill →
    let k' := (s.stage n data).sock n
    (∀ i, i < data.length → some (k'.staging.read stagingDefault ((k.rxTail + i) % 2048)) = data[i]?)
      ∧ (∀ i, i < fill → k'.staging.read stagingDefault ((k.rxHead + i) % 2048)
          = k.staging.read stagingDefault ((k.rxHead + i) % 2048))
      ∧ (∀ i, 2048 ≤ i → k'.staging.read stagingDefault i = k.staging.read stagingDefault i)
      ∧ k'.rxTail < 2048 ∧ ringFill k'.rxHead k'.rxTail = fill + data.length
      ∧ k' = { k with staging := k'.staging, rxTail := (k.rxTail + data.length) % 2048 }

/-- 42 R245: the accept step in LISTEN: not readable, or a failed accept, changes nothing (D21); an
accepted handle replaces the listening one, which is closed, and the status is ESTABLISHED. -/
def Obligations.PollAccept : Prop :=
  ∀ (n : SockId) (h : Handle) (s : State), (s.sock n).handle = some h → (s.sock n).connecting = false →
    s.status n = 0x14 →
    ((s.answerAt 0).isTrue = false →
      ∃ t, exec (.pollSocket n) s = .next t ∧ s.keepsImage t ∧ t.sock n = s.sock n
        ∧ s.onlySocket t n (fun _ => False) ∧ s.drawn t 1 ∧ t.envLog = .readable h :: s.envLog)
      ∧ ((s.answerAt 0).isTrue = true → (s.answerAt 1).asHandle s.liveHandles = none →
          ∃ t, exec (.pollSocket n) s = .next t ∧ s.keepsImage t ∧ t.sock n = s.sock n
            ∧ s.onlySocket t n (fun _ => False) ∧ s.drawn t 2
            ∧ t.envLog = .accept h :: .readable h :: s.envLog)
      ∧ (∀ h', (s.answerAt 0).isTrue = true → (s.answerAt 1).asHandle s.liveHandles = some h' →
          ∃ t, exec (.pollSocket n) s = .next t ∧ t.status n = 0x17
            ∧ t.sock n = { s.sock n with handle := some h' } ∧ 3 ≤ h' ∧ h' ∉ s.liveHandles
            ∧ s.onlySocket t n (· = snSr n) ∧ s.drawn t 2
            ∧ t.envLog = s.closes n ++ .accept h :: .readable h :: s.envLog)

/-- 42 R247: the poll of the virtual TCP flow always completes: it stages, in order, the frames that the
virtual layer returns, in socket 0; it writes no image byte and no other socket. With the responders of
file 44 (log 10) and no open host handle it leaves every socket as it was (44 R345). Injection goes through
the list in order and drops whole a frame that does not fit (42 R265, D18). -/
def Obligations.PollVirtualTcp : Prop :=
  (∀ s : State, ∃ t frames u, exec .pollVtcp s = .next t ∧ s.vnetPoll = (frames, u)
    ∧ (∀ f ∈ frames, f ≠ []) ∧ u.socks = s.socks ∧ t = u.rxInjectAll 0 frames
    ∧ s.keepsImage t ∧ s.keepsOthers t 0 ∧ t.aside = s.aside
    ∧ (s.vnetScript = [] → s.venv.handle = none → t.socks = s.socks ∧ t.venv = s.venv))
    ∧ ∀ (n : SockId) (f : Frame) (fs : List Frame) (s : State),
      s.rxInjectAll n [] = s ∧ s.rxInjectAll n (f :: fs) = (s.rxInject n f).rxInjectAll n fs
        ∧ (4096 < (s.sock n).rxTail + f.length + 2 → s.rxInject n f = s)

/-- 20 R92: an injected frame stands at the tail behind its two-byte big-endian length, which counts
itself; nothing staged before it changes, and the tail moves behind it. -/
def Obligations.InjectedFramePrefix : Prop :=
  ∀ (n : SockId) (f : Frame) (s : State), (s.sock n).rxTail + f.length + 2 ≤ 4096 →
    let k := s.sock n
    let k' := (s.rxInject n f).sock n
    let p := BitVec.ofNat 16 (f.length + 2)
    k'.staging.read stagingDefault k.rxTail = p.extractLsb' 8 8
      ∧ k'.staging.read stagingDefault (k.rxTail + 1) = p.extractLsb' 0 8
      ∧ p.toNat = f.length + 2
      ∧ (∀ i, i < f.length → some (k'.staging.read stagingDefault (k.rxTail + 2 + i)) = f[i]?)
      ∧ (∀ i, i < k.rxTail → k'.staging.read stagingDefault i = k.staging.read stagingDefault i)
      ∧ k' = { k with staging := k'.staging, rxTail := k.rxTail + f.length + 2 }
      ∧ s.onlySocket (s.rxInject n f) n (fun _ => False)

/-! ## The mouse card -/

/-- 43 R271: the ROM window shows the byte of the page that the low three bits of ORB select, whatever else
the PIA holds; the read changes nothing; and the access words of its reads. -/
def Obligations.RomPage : Prop :=
  ∀ (p : Byte) (s : State),
    exec (.piaRdRom p) s =
        .next { s with delivered := some (s.romByte (s.pia.orb.toNat % 8 * 256 + p.toNat)) }
      ∧ ∀ c, decode c (.bus (BitVec.ofNat 24 (0xC0000 + 0x100 * p.toNat))) = .ok (.piaRdRom p)

/-- 43 R273 to R281, R283, R285 to R287, but for the read of ORA: reads of the PIA's registers and of the
unassigned switches return the register or 0 and change nothing; writes store the byte, in CRA and CRB
without bits 7 and 6, and change nothing else. Latches and masks are the spec's decision D25, the unassigned
switches D4. -/
def Obligations.PiaRegisters : Prop :=
  ∀ (v : Byte) (s : State),
    exec .piaRdDdra s = .next { s with delivered := some s.pia.ddra }
      ∧ exec .piaRdCra s = .next { s with delivered := some s.pia.cra }
      ∧ exec .piaRdOrb s = .next { s with delivered := some s.pia.orb }
      ∧ exec .piaRdDdrb s = .next { s with delivered := some s.pia.ddrb }
      ∧ exec .piaRdCrb s = .next { s with delivered := some s.pia.crb }
      ∧ (∀ p, exec (.piaRdUnassignedLow p) s = .next { s with delivered := some 0 })
      ∧ (∀ p, exec (.piaRdUnassignedHigh p) s = .next { s with delivered := some 0 })
      ∧ exec (.piaWrOra v) s = .next { s with pia := { s.pia with ora := v } }
      ∧ exec (.piaWrDdra v) s = .next { s with pia := { s.pia with ddra := v } }
      ∧ exec (.piaWrOrb v) s = .next { s with pia := { s.pia with orb := v } }
      ∧ exec (.piaWrDdrb v) s = .next { s with pia := { s.pia with ddrb := v } }
      ∧ ∃ c : Byte, c.extractLsb' 6 2 = 0 ∧ c.extractLsb' 0 6 = v.extractLsb' 0 6
        ∧ exec (.piaWrCra v) s = .next { s with pia := { s.pia with cra := c } }
        ∧ exec (.piaWrCrb v) s = .next { s with pia := { s.pia with crb := c } }

/-- 43 R270 under the default register-select order (log 18): bit 2 of CRA decides what soft switch 0
addresses, bit 2 of CRB what soft switch 2 addresses; switches 1 and 3 are CRA and CRB. -/
def Obligations.PiaSelect : Prop :=
  ∀ (v : Byte) (s : State), s.params.rsMap = PiaMap.default →
    decodeAccess (s.cond 0) ⟨true, false, false, 0, 0⟩ = (if s.pia.cra.getLsbD 2 then .piaRdOra else .piaRdDdra)
      ∧ decodeAccess (s.cond 0) ⟨true, false, true, 0, v⟩ =
        (if s.pia.cra.getLsbD 2 then .piaWrOra v else .piaWrDdra v)
      ∧ decodeAccess (s.cond 0) ⟨true, false, false, 2, 0⟩ = (if s.pia.crb.getLsbD 2 then .piaRdOrb else .piaRdDdrb)
      ∧ decodeAccess (s.cond 0) ⟨true, false, true, 2, v⟩ =
        (if s.pia.crb.getLsbD 2 then .piaWrOrb v else .piaWrDdrb v)
      ∧ decodeAccess (s.cond 0) ⟨true, false, false, 1, 0⟩ = .piaRdCra
      ∧ decodeAccess (s.cond 0) ⟨true, false, false, 3, 0⟩ = .piaRdCrb

/-- 43 R276: the synthetic byte of a read of ORA, bit by bit, and the one unit that the read takes from
each moving axis; nothing else changes. The tick behaviour is the spec's decision D26. -/
def Obligations.OraRead : Prop :=
  ∀ s : State, ∃ (b : Byte) (t : State), exec .piaRdOra s = .next t ∧ t.delivered = some b
    ∧ b.getLsbD 1 = decide (0 < s.mouse.dx) ∧ b.getLsbD 2 = decide (0 < s.mouse.dy)
    ∧ b.getLsbD 0 = (decide (s.mouse.dx ≠ 0) && !s.mouse.xphase)
    ∧ b.getLsbD 3 = (decide (s.mouse.dy ≠ 0) && !s.mouse.yphase)
    ∧ b.extractLsb' 4 3 = 0 ∧ b.getLsbD 7 = !s.mouse.button
    ∧ t.mouse.dx = s.mouse.dx - s.mouse.dx.sign ∧ t.mouse.dy = s.mouse.dy - s.mouse.dy.sign
    ∧ t.mouse.xphase = (s.mouse.xphase ^^ decide (s.mouse.dx ≠ 0))
    ∧ t.mouse.yphase = (s.mouse.yphase ^^ decide (s.mouse.dy ≠ 0))
    ∧ { t with delivered := s.delivered,
               mouse := { s.mouse with dx := t.mouse.dx, dy := t.mouse.dy,
                                       xphase := t.mouse.xphase, yphase := t.mouse.yphase } }
      = { t with delivered := s.delivered }
    ∧ { t with delivered := s.delivered, mouse := s.mouse } = s

/-- The motion drains: under the default register-select order (log 18) and with the data register
selected, `k` reads of soft switch 0 take from each axis exactly the smaller of `k` and the units it has,
towards zero and never past it; a further read has no tick and no direction on an axis that is drained,
whatever the other has left, and takes nothing from it; and with both drained it delivers the button alone (43
R276; the behaviour is the spec's decision D26). -/
def Obligations.OraDrains : Prop :=
  ∀ (k : Nat) (s : State) (rest : List Request), s.params.rsMap = PiaMap.default →
    s.pia.cra.getLsbD 2 = true → s.pending = List.replicate k (.bus 0x80000) ++ rest →
    ∃ t b u, Host.Core.run core k s = .next t ∧ t.pending = rest
      ∧ t.mouse.dx = s.mouse.dx - s.mouse.dx.sign * (min k s.mouse.dx.natAbs : Nat)
      ∧ t.mouse.dy = s.mouse.dy - s.mouse.dy.sign * (min k s.mouse.dy.natAbs : Nat)
      ∧ exec .piaRdOra t = .next u ∧ u.delivered = some b
      ∧ (s.mouse.dx.natAbs ≤ k →
          b.getLsbD 0 = false ∧ b.getLsbD 1 = false ∧ u.mouse.dx = 0 ∧ u.mouse.xphase = t.mouse.xphase)
      ∧ (s.mouse.dy.natAbs ≤ k →
          b.getLsbD 3 = false ∧ b.getLsbD 2 = false ∧ u.mouse.dy = 0 ∧ u.mouse.yphase = t.mouse.yphase)
      ∧ (s.mouse.dx.natAbs ≤ k → s.mouse.dy.natAbs ≤ k →
          u = { t with delivered := some (if s.mouse.button then 0x00 else 0x80) })

/-! ## Calls of the emulator -/

/-- 43 R291, R292, R293: the position call adds the distance from the last position, the button call
stores the button, the state call returns what is held; nothing else changes. The reading is the spec's
decision D27. -/
def Obligations.MouseCalls : Prop :=
  ∀ (x y : Int) (b : Bool) (s : State),
    exec (.mouseSetPosition x y) s =
        .next { s with mouse := { s.mouse with dx := s.mouse.dx + (x - s.mouse.x), x := x,
                                               dy := s.mouse.dy + (y - s.mouse.y), y := y } }
      ∧ exec (.mouseSetButton b) s = .next { s with mouse := { s.mouse with button := b } }
      ∧ exec .mouseGetState s =
        .next { s with report := some ⟨s.mouse.x, s.mouse.y, s.mouse.button⟩ }

/-- 43 R290, 00 R8: before the emulation starts, a slot call with 1..7 sets the card's slot parameter and tells
the dispatcher, and changes no state of the block. It is refused outside 1..7 and after the start, as 93 U12
says, and for the slot that the other card has, the two being distinct by the spec's decision D38 (log 22). -/
def Obligations.SlotCalls : Prop :=
  ∀ (k : Int) (s : State),
    (1 ≤ k → k ≤ 7 → s.started = false →
      (s.params.mouseSlot ≠ some k.toNat → exec (.u2SetSlot k) s =
          .next { s with params := { s.params with u2Slot := some k.toNat }, envLog := .slot .uthernet2 k :: s.envLog })
        ∧ (s.params.u2Slot ≠ some k.toNat → exec (.mouseSetSlot k) s =
          .next { s with params := { s.params with mouseSlot := some k.toNat }, envLog := .slot .mouse k :: s.envLog })
        ∧ (s.params.mouseSlot = some k.toNat → exec (.u2SetSlot k) s = .refused .slotTaken)
        ∧ (s.params.u2Slot = some k.toNat → exec (.mouseSetSlot k) s = .refused .slotTaken))
      ∧ (k < 1 ∨ 7 < k → exec (.u2SetSlot k) s = .refused .slotOutOfRange
        ∧ exec (.mouseSetSlot k) s = .refused .slotOutOfRange)
      ∧ (1 ≤ k → k ≤ 7 → s.started = true → exec (.u2SetSlot k) s = .refused .slotAfterStart
        ∧ exec (.mouseSetSlot k) s = .refused .slotAfterStart)

/-! ## The virtual network layer -/

/-- 44 R316, R317: an ARP request for the gateway gets one 42-byte reply from the gateway to the
requester; any other ARP frame gets none; the state does not change. The field order is general knowledge
(log 29). -/
def Obligations.ArpReply : Prop :=
  ∀ (c : VNetChoices) (f : Frame) (s : State), 42 ≤ f.length → etherType f = 0x0806 →
    (word16At f 20 = 1 → word32At f 38 = 0xC0A84101 →
      ∃ r, respond c f s = ([r], s) ∧ r.length = 42
        ∧ macAt r 0 = macAt f 22 ∧ macAt r 6 = 0x0200DEADBE01 ∧ word16At r 12 = 0x0806
        ∧ word32At r 14 = 0x00010800 ∧ word16At r 18 = 0x0604 ∧ word16At r 20 = 2
        ∧ macAt r 22 = 0x0200DEADBE01 ∧ word32At r 28 = 0xC0A84101 ∧ macAt r 32 = macAt f 22
        ∧ word32At r 38 = word32At f 28)
      ∧ (word16At f 20 ≠ 1 ∨ word32At f 38 ≠ 0xC0A84101 → respond c f s = ([], s))

/-- 44 R320, R322, R325: a SEND that carries a DISCOVER records the client and moves the state to
OFFER_SENT or leaves it; one that carries a matching REQUEST in OFFER_SENT or COMPLETE ends in COMPLETE
with SIPR, GAR and SUBR written. Here the virtual layer is the responders of file 44 (log 10); which frames
are malformed and which byte is the message type are the model's choice (log 12, 33, 36, 37); rows 3 to 6 of
R320 are the spec's decision D33. -/
def Obligations.DhcpLease : Prop :=
  ∀ (n : SockId) (c : VNetChoices) (script : List VNetAnswer) (d : Nat) (ty : Byte) (s : State),
    s.status n = 0x42 → 1 ≤ s.txLen n → s.txLen n ≤ 1600 → s.vnetScript = .responder c :: script →
    etherType (s.txData n) = 0x0800 → ipProto (s.txData n) = 17 →
    dhcpMessage c (s.txData n) = some (d, ty) →
    ∃ t, exec (.cmdSendMacraw n) s = .next t
      ∧ (ty = 1 → s.venv.dhcpState = .idle ∨ s.venv.dhcpState = .offerSent ∨ s.venv.dhcpState = .complete →
          t.venv = { s.venv with
            dhcpState := if s.venv.dhcpState = .idle then .offerSent else s.venv.dhcpState
            dhcpXid := word32At (s.txData n) (d + 4), clientMac := macAt (s.txData n) (d + 28) })
      ∧ (ty = 3 → s.venv.dhcpState = .offerSent ∨ s.venv.dhcpState = .complete →
          word32At (s.txData n) (d + 4) = s.venv.dhcpXid → macAt (s.txData n) (d + 28) = s.venv.clientMac →
          t.venv = { s.venv with dhcpState := .complete } ∧ t.getIp 0x000F = 0xC0A84164
            ∧ t.getIp 0x0001 = 0xC0A84101 ∧ t.getIp 0x0005 = 0xFFFFFF00)

/-- 44 R320: while the virtual layer is the responders of file 44 (log 10), no operation and no step takes the
DHCP state back, but for a reset (70 R390); none leaves it anew in one of the two states it only passes
through; and the layer stays the responders, so that the law holds along every run. That it holds for every
input rests on the spec's decision D33. -/
def Obligations.DhcpNeverGoesBack : Prop :=
  ∀ (s t : State), s.responders → (step s = .next t ∨ ∃ i, exec i s = .next t) → t.resets = s.resets →
    t.responders ∧ dhcpRank s.venv.dhcpState ≤ dhcpRank t.venv.dhcpState
      ∧ (t.venv.dhcpState ≠ s.venv.dhcpState →
          t.venv.dhcpState = .offerSent ∨ t.venv.dhcpState = .complete)

/-- 44 R331, R336: a SYN for the gateway subnets drops any prior flow and asks the host for a connection
to the dialed port; granted, one SYN+ACK with sequence number 12345 and a flow whose `our_seq` is 12346;
refused, one RST+ACK and no flow. Here the choices take the SYN's options (log 11); that data, FIN and RST of
the segment and its checksums do not matter is the model's choice (log 33, 34); field order is general
knowledge (log 29). -/
def Obligations.TcpSyn : Prop :=
  ∀ (c : VNetChoices) (f : Frame) (g : Segment) (s : State), 34 ≤ f.length → etherType f = 0x0800 →
    ipProto f = 6 → tcpSegmentOf c f = some g → (thirdOctet g.dstIp = 64 ∨ thirdOctet g.dstIp = 65) →
    g.has 0x02 = true → g.has 0x10 = false → c.dropSynOptions = false →
    ∃ fr t, respond c f s = (fr, t) ∧ t.socks = s.socks ∧ s.keepsImage t ∧ t.aside = s.aside
      ∧ .vtcpConnect g.dstPort ∈ t.envLog
      ∧ (∀ h, (s.answerAt 0).asHandle s.dropFlow.liveHandles = some h →
          ∃ v o, t.venv.vtcp = some v ∧ v.handle = some h ∧ v.ourSeq = 12346 ∧ v.theirSeq = g.seq + 1
            ∧ v.remoteMac = g.srcMac ∧ v.remoteIp = g.srcIp ∧ v.dialedIp = g.dstIp
            ∧ v.remotePort = g.srcPort ∧ v.localPort = g.dstPort ∧ v.established = false
            ∧ v.finSent = false ∧ v.finReceived = false
            ∧ fr = [tcpSegment o { v with ourSeq := 12345 } 0x12 []])
      ∧ ((s.answerAt 0).asHandle s.dropFlow.liveHandles = none →
          t.venv.vtcp = none ∧ ∃ v o, v.remoteMac = g.srcMac ∧ v.remoteIp = g.srcIp ∧ v.dialedIp = g.dstIp
            ∧ v.remotePort = g.srcPort ∧ v.localPort = g.dstPort ∧ fr = [tcpSegment o v 0x14 []])

/-- 44 R313: the one's-complement sum of the IPv4 header of any reply is 0xFFFF, and so is that of any
TCP segment over its pseudo-header and body. The algorithm is general knowledge (log 29). -/
def Obligations.ChecksumLaw : Prop :=
  (∀ (o : ReplyOpen) (proto : Byte) (src dst : Ip) (total : Nat),
    onesSum 0 (ipHeader o proto src dst total) = 0xFFFF ∧ (ipHeader o proto src dst total).length = 20)
    ∧ ∀ (v : VTcp) (flags : Byte) (payload : List Byte),
      onesSum 0 (tcpPseudo v payload.length ++ tcpBody v flags payload) = 0xFFFF

/-! ## Invariants and isolation -/

/-- The invariants hold in the state after reset. -/
def Obligations.SoundAtReset : Prop := State.reset.Sound ∧ State.reset.StatusAgrees

/-- Every step keeps the invariants, from every state that has them, whatever software does: the memories
canonical, Sn_CR and mode bit 7 reading 0 (10 R77 I1, I2), CRA and CRB bits 7 and 6 reading 0, only socket 0
in MACRAW mode (I4), heads and tails inside the staging buffers, every handle owned once and none a reserved
stream, the slots in 1..7 and distinct (00 R8, D38). -/
def Obligations.StepKeepsSound : Prop :=
  ∀ s t : State, s.Sound → step s = .next t → t.Sound

/-- Every step that is not a store at a status byte keeps status and handle in agreement (10 R77 I5, I6).
-/
def Obligations.StepKeepsStatusAgrees : Prop :=
  ∀ (s t : State) (r : Request) (rest : List Request) (i : Instr), s.Sound → s.StatusAgrees →
    s.pending = r :: rest → decode (s.cond r.socket) r = .ok i → (∀ n : SockId, ¬ storesAt s (snSr n) i) →
    step s = .next t → t.StatusAgrees

/-- The two cards do not touch each other (70 R392): no operation of the Uthernet II card changes the PIA,
the motion state or the ROM of the mouse card, and no bus access to the mouse card changes anything but the
PIA, the motion state and the delivered byte. -/
def Obligations.CardsApart : Prop :=
  ∀ (i : Instr) (s t : State), exec i s = .next t →
    (isU2 i = true → t.pia = s.pia ∧ t.mouse = s.mouse ∧ t.mouseRom = s.mouseRom)
      ∧ (isPia i = true → { t with pia := s.pia, mouse := s.mouse, delivered := s.delivered } = s)

/-- Two sockets never act in one access (60 R368): an operation on socket `n`'s page leaves the extension
state, the register page and the TX ring of every other socket as they were. -/
def Obligations.SocketsApart : Prop :=
  ∀ (i : Instr) (n : SockId) (s t : State), s.Sound → actsOn n i → exec i s = .next t →
    s.keepsOthers t n
      ∧ ∀ m : SockId, m ≠ n → ∀ o : Byte, t.peek (sockBase m + o.toNat) = s.peek (sockBase m + o.toNat)
        ∧ ∀ j : BitVec 11, t.peek (txBase m + j.toNat) = s.peek (txBase m + j.toNat)
end

