-- ==== Sys2Proof/Laws/Memory.lean ====
section
/-! SUPPORT. The laws of byte memories: a read after a write, the canonical form kept, equal reads make equal memories. -/

namespace Sys2Proof.Machine

variable (dflt : Nat → Byte) (size : Nat)

/-! ## Reading back -/

theorem Memory.read_erase_same (m : Memory) (a : Nat) : (m.erase a).read dflt a = dflt a := by
  induction m with
  | nil => rfl
  | cons c m ih =>
    obtain ⟨k, v⟩ := c
    by_cases h : a = k
    · subst h; simpa [Memory.erase] using ih
    · simp [Memory.erase, Memory.read, h, ih]

theorem Memory.read_erase_other (m : Memory) {a b : Nat} (hb : b ≠ a) :
    (m.erase a).read dflt b = m.read dflt b := by
  induction m with
  | nil => rfl
  | cons c m ih =>
    obtain ⟨k, v⟩ := c
    by_cases h : a = k
    · subst h; simp [Memory.erase, Memory.read, hb, ih]
    · simp [Memory.erase, Memory.read, h, ih]

theorem Memory.read_insert_other (m : Memory) {a b : Nat} (v : Byte) (hb : b ≠ a) :
    (m.insert a v).read dflt b = m.read dflt b := by
  induction m with
  | nil => simp [Memory.insert, Memory.read, hb]
  | cons c m ih =>
    obtain ⟨k, w⟩ := c
    by_cases h : a < k
    · simp [Memory.insert, Memory.read, h, hb]
    · simp [Memory.insert, Memory.read, h, ih]

theorem Memory.read_insert_erase_same (m : Memory) (a : Nat) (v : Byte) :
    ((m.erase a).insert a v).read dflt a = v := by
  induction m with
  | nil => simp [Memory.erase, Memory.insert, Memory.read]
  | cons c m ih =>
    obtain ⟨k, w⟩ := c
    by_cases h : a = k
    · subst h; simpa [Memory.erase] using ih
    · by_cases hk : a < k
      · simp [Memory.erase, h, Memory.insert, hk, Memory.read]
      · simp [Memory.erase, h, Memory.insert, hk, Memory.read, ih]

/-- A read after a write to the same address gives the value written. -/
@[simp] theorem Memory.read_write_same (m : Memory) (a : Nat) (v : Byte) :
    (m.write dflt a v).read dflt a = v := by
  unfold Memory.write
  split
  · next h => rw [read_erase_same, h]
  · exact read_insert_erase_same dflt m a v

/-- A write leaves every other address alone. -/
theorem Memory.read_write_other (m : Memory) {a b : Nat} (v : Byte) (hb : b ≠ a) :
    (m.write dflt a v).read dflt b = m.read dflt b := by
  unfold Memory.write
  split
  · exact read_erase_other dflt m hb
  · rw [read_insert_other dflt _ v hb, read_erase_other dflt m hb]

/-- A read after a write, at any address. -/
theorem Memory.read_write (m : Memory) (a b : Nat) (v : Byte) :
    (m.write dflt a v).read dflt b = if b = a then v else m.read dflt b := by
  by_cases h : b = a
  · subst h; simp
  · simp [h, read_write_other]

/-! ## The canonical form -/

theorem Memory.wfFrom_cons (lo k : Nat) (v : Byte) (m : Memory) :
    Memory.wfFrom dflt size lo ((k, v) :: m) = true ↔
      lo ≤ k ∧ k < size ∧ v ≠ dflt k ∧ Memory.wfFrom dflt size (k + 1) m = true := by
  simp [Memory.wfFrom, and_assoc]

/-- A memory canonical from `lo` on is canonical from any lower address on. -/
theorem Memory.wfFrom_mono {lo lo' : Nat} (m : Memory) (h : lo' ≤ lo)
    (hm : Memory.wfFrom dflt size lo m = true) : Memory.wfFrom dflt size lo' m = true := by
  cases m with
  | nil => rfl
  | cons c m =>
    obtain ⟨k, v⟩ := c
    rw [wfFrom_cons] at hm ⊢
    exact ⟨by omega, hm.2⟩

theorem Memory.wfFrom_erase {lo : Nat} (m : Memory) (a : Nat) (hm : Memory.wfFrom dflt size lo m = true) :
    Memory.wfFrom dflt size lo (m.erase a) = true := by
  induction m generalizing lo with
  | nil => rfl
  | cons c m ih =>
    obtain ⟨k, v⟩ := c
    rw [wfFrom_cons] at hm
    by_cases h : a = k
    · simp only [Memory.erase, h, ↓reduceIte]
      exact wfFrom_mono dflt size _ (by omega) (ih (lo := k + 1) hm.2.2.2 |> fun x => h ▸ x)
    · simp only [Memory.erase, h, ↓reduceIte]
      rw [wfFrom_cons]
      exact ⟨hm.1, hm.2.1, hm.2.2.1, ih hm.2.2.2⟩

/-- No cell of an erased address is left. -/
theorem Memory.notMem_erase (m : Memory) (a : Nat) : ∀ c ∈ m.erase a, c.1 ≠ a := by
  induction m with
  | nil => simp [Memory.erase]
  | cons c m ih =>
    obtain ⟨k, v⟩ := c
    by_cases h : a = k
    · subst h; simpa [Memory.erase] using ih
    · simp only [Memory.erase, h, ↓reduceIte, List.mem_cons]
      rintro x (rfl | hx)
      · exact fun e => h e.symm
      · exact ih x hx

theorem Memory.wfFrom_insert {lo : Nat} (m : Memory) (a : Nat) (v : Byte)
    (hm : Memory.wfFrom dflt size lo m = true) (hlo : lo ≤ a) (ha : a < size) (hv : v ≠ dflt a)
    (hne : ∀ c ∈ m, c.1 ≠ a) : Memory.wfFrom dflt size lo (m.insert a v) = true := by
  induction m generalizing lo with
  | nil => simp [Memory.insert, Memory.wfFrom, hlo, ha, hv]
  | cons c m ih =>
    obtain ⟨k, w⟩ := c
    rw [wfFrom_cons] at hm
    have hk : k ≠ a := hne (k, w) (by simp)
    by_cases h : a < k
    · simp only [Memory.insert, h, ↓reduceIte]
      rw [wfFrom_cons, wfFrom_cons]
      exact ⟨hlo, ha, hv, by omega, hm.2.1, hm.2.2.1, hm.2.2.2⟩
    · simp only [Memory.insert, h, ↓reduceIte]
      rw [wfFrom_cons]
      exact ⟨hm.1, hm.2.1, hm.2.2.1,
        ih hm.2.2.2 (by omega) (fun c hc => hne c (List.mem_cons_of_mem _ hc))⟩

/-- A write inside the memory keeps the canonical form. -/
theorem Memory.wf_write (m : Memory) (a : Nat) (v : Byte) (hm : m.wf dflt size = true) (ha : a < size) :
    (m.write dflt a v).wf dflt size = true := by
  unfold Memory.wf at hm ⊢
  unfold Memory.write
  split
  · exact wfFrom_erase dflt size m a hm
  · next hv =>
    exact wfFrom_insert dflt size _ a v (wfFrom_erase dflt size m a hm) (Nat.zero_le a) ha hv
      (notMem_erase m a)

@[simp] theorem Memory.wf_nil : Memory.wf dflt size [] = true := rfl

@[simp] theorem Memory.read_nil (a : Nat) : Memory.read dflt [] a = dflt a := rfl

/-- Below the first cell of a canonical memory every address reads as unlisted. -/
theorem Memory.read_below {lo a : Nat} (m : Memory) (hm : Memory.wfFrom dflt size lo m = true) (ha : a < lo) :
    m.read dflt a = dflt a := by
  induction m generalizing lo with
  | nil => rfl
  | cons c m ih =>
    obtain ⟨k, v⟩ := c
    rw [wfFrom_cons] at hm
    have : a ≠ k := by omega
    simp only [Memory.read, this, ↓reduceIte]
    exact ih hm.2.2.2 (by omega)

/-- Canonical memories that read alike at every address are equal. -/
theorem Memory.ext_of_wfFrom {lo : Nat} (m m' : Memory) (hm : Memory.wfFrom dflt size lo m = true)
    (hm' : Memory.wfFrom dflt size lo m' = true) (h : ∀ a, m.read dflt a = m'.read dflt a) : m = m' := by
  induction m generalizing lo m' with
  | nil =>
    cases m' with
    | nil => rfl
    | cons c m' =>
      obtain ⟨k, v⟩ := c
      rw [wfFrom_cons] at hm'
      exact absurd (by simpa [Memory.read] using (h k).symm) hm'.2.2.1
  | cons c m ih =>
    obtain ⟨k, v⟩ := c
    rw [wfFrom_cons] at hm
    cases m' with
    | nil => exact absurd (by simpa [Memory.read] using h k) hm.2.2.1
    | cons c' m' =>
      obtain ⟨k', v'⟩ := c'
      rw [wfFrom_cons] at hm'
      rcases Nat.lt_trichotomy k k' with hk | hk | hk
      · have e := h k
        rw [read_below dflt size (lo := k') ((k', v') :: m') (by rw [wfFrom_cons]; exact ⟨le_refl _, hm'.2⟩) hk] at e
        exact absurd (by simpa [Memory.read] using e) hm.2.2.1
      · subst hk
        have hv : v = v' := by simpa [Memory.read] using h k
        subst hv
        have : m = m' := by
          refine ih m' hm.2.2.2 hm'.2.2.2 fun a => ?_
          by_cases ha : a = k
          · subst ha
            rw [read_below dflt size m hm.2.2.2 (by omega), read_below dflt size m' hm'.2.2.2 (by omega)]
          · simpa [Memory.read, ha] using h a
        rw [this]
      · have e := h k'
        rw [read_below dflt size (lo := k) ((k, v) :: m) (by rw [wfFrom_cons]; exact ⟨le_refl _, hm.2⟩) hk] at e
        exact absurd (by simpa [Memory.read] using e.symm) hm'.2.2.1

/-- Equal memories are equal data: canonical memories that read alike are one list. -/
theorem Memory.ext (m m' : Memory) (hm : m.wf dflt size = true) (hm' : m'.wf dflt size = true)
    (h : ∀ a, m.read dflt a = m'.read dflt a) : m = m' :=
  ext_of_wfFrom dflt size m m' hm hm' h

end Sys2Proof.Machine
end

