-- ==== Sys2Proof/Laws/State.lean ====
section
/-! SUPPORT. What each update of the state leaves unchanged: one lemma per field per update. -/

namespace Sys2Proof.Machine

variable (s : State)

/-! ## poke -/

@[simp] theorem poke_addrPtr (a : Nat) (v : Byte) : (s.poke a v).addrPtr = s.addrPtr := rfl
@[simp] theorem poke_socks (a : Nat) (v : Byte) : (s.poke a v).socks = s.socks := rfl
@[simp] theorem poke_venv (a : Nat) (v : Byte) : (s.poke a v).venv = s.venv := rfl
@[simp] theorem poke_pia (a : Nat) (v : Byte) : (s.poke a v).pia = s.pia := rfl
@[simp] theorem poke_mouse (a : Nat) (v : Byte) : (s.poke a v).mouse = s.mouse := rfl
@[simp] theorem poke_mouseRom (a : Nat) (v : Byte) : (s.poke a v).mouseRom = s.mouseRom := rfl
@[simp] theorem poke_params (a : Nat) (v : Byte) : (s.poke a v).params = s.params := rfl
@[simp] theorem poke_pending (a : Nat) (v : Byte) : (s.poke a v).pending = s.pending := rfl
@[simp] theorem poke_started (a : Nat) (v : Byte) : (s.poke a v).started = s.started := rfl
@[simp] theorem poke_delivered (a : Nat) (v : Byte) : (s.poke a v).delivered = s.delivered := rfl
@[simp] theorem poke_report (a : Nat) (v : Byte) : (s.poke a v).report = s.report := rfl
@[simp] theorem poke_hostScript (a : Nat) (v : Byte) : (s.poke a v).hostScript = s.hostScript := rfl
@[simp] theorem poke_hostDraws (a : Nat) (v : Byte) : (s.poke a v).hostDraws = s.hostDraws := rfl
@[simp] theorem poke_vnetScript (a : Nat) (v : Byte) : (s.poke a v).vnetScript = s.vnetScript := rfl
@[simp] theorem poke_vnetDraws (a : Nat) (v : Byte) : (s.poke a v).vnetDraws = s.vnetDraws := rfl
@[simp] theorem poke_resets (a : Nat) (v : Byte) : (s.poke a v).resets = s.resets := rfl
@[simp] theorem poke_envLog (a : Nat) (v : Byte) : (s.poke a v).envLog = s.envLog := rfl

/-! ## setSock -/

@[simp] theorem setSock_mem (n : SockId) (x : Sock) : (s.setSock n x).mem = s.mem := rfl
@[simp] theorem setSock_addrPtr (n : SockId) (x : Sock) : (s.setSock n x).addrPtr = s.addrPtr := rfl
@[simp] theorem setSock_venv (n : SockId) (x : Sock) : (s.setSock n x).venv = s.venv := rfl
@[simp] theorem setSock_pia (n : SockId) (x : Sock) : (s.setSock n x).pia = s.pia := rfl
@[simp] theorem setSock_mouse (n : SockId) (x : Sock) : (s.setSock n x).mouse = s.mouse := rfl
@[simp] theorem setSock_mouseRom (n : SockId) (x : Sock) : (s.setSock n x).mouseRom = s.mouseRom := rfl
@[simp] theorem setSock_params (n : SockId) (x : Sock) : (s.setSock n x).params = s.params := rfl
@[simp] theorem setSock_pending (n : SockId) (x : Sock) : (s.setSock n x).pending = s.pending := rfl
@[simp] theorem setSock_started (n : SockId) (x : Sock) : (s.setSock n x).started = s.started := rfl
@[simp] theorem setSock_delivered (n : SockId) (x : Sock) : (s.setSock n x).delivered = s.delivered := rfl
@[simp] theorem setSock_report (n : SockId) (x : Sock) : (s.setSock n x).report = s.report := rfl
@[simp] theorem setSock_hostScript (n : SockId) (x : Sock) : (s.setSock n x).hostScript = s.hostScript := rfl
@[simp] theorem setSock_hostDraws (n : SockId) (x : Sock) : (s.setSock n x).hostDraws = s.hostDraws := rfl
@[simp] theorem setSock_vnetScript (n : SockId) (x : Sock) : (s.setSock n x).vnetScript = s.vnetScript := rfl
@[simp] theorem setSock_vnetDraws (n : SockId) (x : Sock) : (s.setSock n x).vnetDraws = s.vnetDraws := rfl
@[simp] theorem setSock_resets (n : SockId) (x : Sock) : (s.setSock n x).resets = s.resets := rfl
@[simp] theorem setSock_envLog (n : SockId) (x : Sock) : (s.setSock n x).envLog = s.envLog := rfl

/-! ## logCall -/

@[simp] theorem logCall_mem (c : EnvCall) : (s.logCall c).mem = s.mem := rfl
@[simp] theorem logCall_addrPtr (c : EnvCall) : (s.logCall c).addrPtr = s.addrPtr := rfl
@[simp] theorem logCall_socks (c : EnvCall) : (s.logCall c).socks = s.socks := rfl
@[simp] theorem logCall_venv (c : EnvCall) : (s.logCall c).venv = s.venv := rfl
@[simp] theorem logCall_pia (c : EnvCall) : (s.logCall c).pia = s.pia := rfl
@[simp] theorem logCall_mouse (c : EnvCall) : (s.logCall c).mouse = s.mouse := rfl
@[simp] theorem logCall_mouseRom (c : EnvCall) : (s.logCall c).mouseRom = s.mouseRom := rfl
@[simp] theorem logCall_params (c : EnvCall) : (s.logCall c).params = s.params := rfl
@[simp] theorem logCall_pending (c : EnvCall) : (s.logCall c).pending = s.pending := rfl
@[simp] theorem logCall_started (c : EnvCall) : (s.logCall c).started = s.started := rfl
@[simp] theorem logCall_delivered (c : EnvCall) : (s.logCall c).delivered = s.delivered := rfl
@[simp] theorem logCall_report (c : EnvCall) : (s.logCall c).report = s.report := rfl
@[simp] theorem logCall_hostScript (c : EnvCall) : (s.logCall c).hostScript = s.hostScript := rfl
@[simp] theorem logCall_hostDraws (c : EnvCall) : (s.logCall c).hostDraws = s.hostDraws := rfl
@[simp] theorem logCall_vnetScript (c : EnvCall) : (s.logCall c).vnetScript = s.vnetScript := rfl
@[simp] theorem logCall_vnetDraws (c : EnvCall) : (s.logCall c).vnetDraws = s.vnetDraws := rfl
@[simp] theorem logCall_resets (c : EnvCall) : (s.logCall c).resets = s.resets := rfl

/-! ## deliver -/

@[simp] theorem deliver_mem (b : Byte) : (s.deliver b).mem = s.mem := rfl
@[simp] theorem deliver_addrPtr (b : Byte) : (s.deliver b).addrPtr = s.addrPtr := rfl
@[simp] theorem deliver_socks (b : Byte) : (s.deliver b).socks = s.socks := rfl
@[simp] theorem deliver_venv (b : Byte) : (s.deliver b).venv = s.venv := rfl
@[simp] theorem deliver_pia (b : Byte) : (s.deliver b).pia = s.pia := rfl
@[simp] theorem deliver_mouse (b : Byte) : (s.deliver b).mouse = s.mouse := rfl
@[simp] theorem deliver_mouseRom (b : Byte) : (s.deliver b).mouseRom = s.mouseRom := rfl
@[simp] theorem deliver_params (b : Byte) : (s.deliver b).params = s.params := rfl
@[simp] theorem deliver_pending (b : Byte) : (s.deliver b).pending = s.pending := rfl
@[simp] theorem deliver_started (b : Byte) : (s.deliver b).started = s.started := rfl
@[simp] theorem deliver_report (b : Byte) : (s.deliver b).report = s.report := rfl
@[simp] theorem deliver_hostScript (b : Byte) : (s.deliver b).hostScript = s.hostScript := rfl
@[simp] theorem deliver_hostDraws (b : Byte) : (s.deliver b).hostDraws = s.hostDraws := rfl
@[simp] theorem deliver_vnetScript (b : Byte) : (s.deliver b).vnetScript = s.vnetScript := rfl
@[simp] theorem deliver_vnetDraws (b : Byte) : (s.deliver b).vnetDraws = s.vnetDraws := rfl
@[simp] theorem deliver_resets (b : Byte) : (s.deliver b).resets = s.resets := rfl
@[simp] theorem deliver_envLog (b : Byte) : (s.deliver b).envLog = s.envLog := rfl

/-! ## take -/

@[simp] theorem take_mem (r : Request) (rest : List Request) : (s.take r rest).mem = s.mem := rfl
@[simp] theorem take_addrPtr (r : Request) (rest : List Request) : (s.take r rest).addrPtr = s.addrPtr := rfl
@[simp] theorem take_socks (r : Request) (rest : List Request) : (s.take r rest).socks = s.socks := rfl
@[simp] theorem take_venv (r : Request) (rest : List Request) : (s.take r rest).venv = s.venv := rfl
@[simp] theorem take_pia (r : Request) (rest : List Request) : (s.take r rest).pia = s.pia := rfl
@[simp] theorem take_mouse (r : Request) (rest : List Request) : (s.take r rest).mouse = s.mouse := rfl
@[simp] theorem take_mouseRom (r : Request) (rest : List Request) : (s.take r rest).mouseRom = s.mouseRom := rfl
@[simp] theorem take_params (r : Request) (rest : List Request) : (s.take r rest).params = s.params := rfl
@[simp] theorem take_delivered (r : Request) (rest : List Request) : (s.take r rest).delivered = s.delivered := rfl
@[simp] theorem take_report (r : Request) (rest : List Request) : (s.take r rest).report = s.report := rfl
@[simp] theorem take_hostScript (r : Request) (rest : List Request) : (s.take r rest).hostScript = s.hostScript := rfl
@[simp] theorem take_hostDraws (r : Request) (rest : List Request) : (s.take r rest).hostDraws = s.hostDraws := rfl
@[simp] theorem take_vnetScript (r : Request) (rest : List Request) : (s.take r rest).vnetScript = s.vnetScript := rfl
@[simp] theorem take_vnetDraws (r : Request) (rest : List Request) : (s.take r rest).vnetDraws = s.vnetDraws := rfl
@[simp] theorem take_resets (r : Request) (rest : List Request) : (s.take r rest).resets = s.resets := rfl
@[simp] theorem take_envLog (r : Request) (rest : List Request) : (s.take r rest).envLog = s.envLog := rfl

/-! ## withRequest -/

@[simp] theorem withRequest_mem (r : Request) : (s.withRequest r).mem = s.mem := rfl
@[simp] theorem withRequest_addrPtr (r : Request) : (s.withRequest r).addrPtr = s.addrPtr := rfl
@[simp] theorem withRequest_socks (r : Request) : (s.withRequest r).socks = s.socks := rfl
@[simp] theorem withRequest_venv (r : Request) : (s.withRequest r).venv = s.venv := rfl
@[simp] theorem withRequest_pia (r : Request) : (s.withRequest r).pia = s.pia := rfl
@[simp] theorem withRequest_mouse (r : Request) : (s.withRequest r).mouse = s.mouse := rfl
@[simp] theorem withRequest_mouseRom (r : Request) : (s.withRequest r).mouseRom = s.mouseRom := rfl
@[simp] theorem withRequest_params (r : Request) : (s.withRequest r).params = s.params := rfl
@[simp] theorem withRequest_started (r : Request) : (s.withRequest r).started = s.started := rfl
@[simp] theorem withRequest_delivered (r : Request) : (s.withRequest r).delivered = s.delivered := rfl
@[simp] theorem withRequest_report (r : Request) : (s.withRequest r).report = s.report := rfl
@[simp] theorem withRequest_hostScript (r : Request) : (s.withRequest r).hostScript = s.hostScript := rfl
@[simp] theorem withRequest_hostDraws (r : Request) : (s.withRequest r).hostDraws = s.hostDraws := rfl
@[simp] theorem withRequest_vnetScript (r : Request) : (s.withRequest r).vnetScript = s.vnetScript := rfl
@[simp] theorem withRequest_vnetDraws (r : Request) : (s.withRequest r).vnetDraws = s.vnetDraws := rfl
@[simp] theorem withRequest_resets (r : Request) : (s.withRequest r).resets = s.resets := rfl
@[simp] theorem withRequest_envLog (r : Request) : (s.withRequest r).envLog = s.envLog := rfl

/-! ## put16 -/

@[simp] theorem put16_addrPtr (a : Nat) (v : Word16) : (s.put16 a v).addrPtr = s.addrPtr := rfl
@[simp] theorem put16_socks (a : Nat) (v : Word16) : (s.put16 a v).socks = s.socks := rfl
@[simp] theorem put16_venv (a : Nat) (v : Word16) : (s.put16 a v).venv = s.venv := rfl
@[simp] theorem put16_pia (a : Nat) (v : Word16) : (s.put16 a v).pia = s.pia := rfl
@[simp] theorem put16_mouse (a : Nat) (v : Word16) : (s.put16 a v).mouse = s.mouse := rfl
@[simp] theorem put16_mouseRom (a : Nat) (v : Word16) : (s.put16 a v).mouseRom = s.mouseRom := rfl
@[simp] theorem put16_params (a : Nat) (v : Word16) : (s.put16 a v).params = s.params := rfl
@[simp] theorem put16_pending (a : Nat) (v : Word16) : (s.put16 a v).pending = s.pending := rfl
@[simp] theorem put16_started (a : Nat) (v : Word16) : (s.put16 a v).started = s.started := rfl
@[simp] theorem put16_delivered (a : Nat) (v : Word16) : (s.put16 a v).delivered = s.delivered := rfl
@[simp] theorem put16_report (a : Nat) (v : Word16) : (s.put16 a v).report = s.report := rfl
@[simp] theorem put16_hostScript (a : Nat) (v : Word16) : (s.put16 a v).hostScript = s.hostScript := rfl
@[simp] theorem put16_hostDraws (a : Nat) (v : Word16) : (s.put16 a v).hostDraws = s.hostDraws := rfl
@[simp] theorem put16_vnetScript (a : Nat) (v : Word16) : (s.put16 a v).vnetScript = s.vnetScript := rfl
@[simp] theorem put16_vnetDraws (a : Nat) (v : Word16) : (s.put16 a v).vnetDraws = s.vnetDraws := rfl
@[simp] theorem put16_resets (a : Nat) (v : Word16) : (s.put16 a v).resets = s.resets := rfl
@[simp] theorem put16_envLog (a : Nat) (v : Word16) : (s.put16 a v).envLog = s.envLog := rfl

/-! ## putIp -/

@[simp] theorem putIp_addrPtr (a : Nat) (ip : Ip) : (s.putIp a ip).addrPtr = s.addrPtr := rfl
@[simp] theorem putIp_socks (a : Nat) (ip : Ip) : (s.putIp a ip).socks = s.socks := rfl
@[simp] theorem putIp_venv (a : Nat) (ip : Ip) : (s.putIp a ip).venv = s.venv := rfl
@[simp] theorem putIp_pia (a : Nat) (ip : Ip) : (s.putIp a ip).pia = s.pia := rfl
@[simp] theorem putIp_mouse (a : Nat) (ip : Ip) : (s.putIp a ip).mouse = s.mouse := rfl
@[simp] theorem putIp_mouseRom (a : Nat) (ip : Ip) : (s.putIp a ip).mouseRom = s.mouseRom := rfl
@[simp] theorem putIp_params (a : Nat) (ip : Ip) : (s.putIp a ip).params = s.params := rfl
@[simp] theorem putIp_pending (a : Nat) (ip : Ip) : (s.putIp a ip).pending = s.pending := rfl
@[simp] theorem putIp_started (a : Nat) (ip : Ip) : (s.putIp a ip).started = s.started := rfl
@[simp] theorem putIp_delivered (a : Nat) (ip : Ip) : (s.putIp a ip).delivered = s.delivered := rfl
@[simp] theorem putIp_report (a : Nat) (ip : Ip) : (s.putIp a ip).report = s.report := rfl
@[simp] theorem putIp_hostScript (a : Nat) (ip : Ip) : (s.putIp a ip).hostScript = s.hostScript := rfl
@[simp] theorem putIp_hostDraws (a : Nat) (ip : Ip) : (s.putIp a ip).hostDraws = s.hostDraws := rfl
@[simp] theorem putIp_vnetScript (a : Nat) (ip : Ip) : (s.putIp a ip).vnetScript = s.vnetScript := rfl
@[simp] theorem putIp_vnetDraws (a : Nat) (ip : Ip) : (s.putIp a ip).vnetDraws = s.vnetDraws := rfl
@[simp] theorem putIp_resets (a : Nat) (ip : Ip) : (s.putIp a ip).resets = s.resets := rfl
@[simp] theorem putIp_envLog (a : Nat) (ip : Ip) : (s.putIp a ip).envLog = s.envLog := rfl

/-! ## setStatus -/

@[simp] theorem setStatus_addrPtr (n : SockId) (v : Byte) : (s.setStatus n v).addrPtr = s.addrPtr := rfl
@[simp] theorem setStatus_socks (n : SockId) (v : Byte) : (s.setStatus n v).socks = s.socks := rfl
@[simp] theorem setStatus_venv (n : SockId) (v : Byte) : (s.setStatus n v).venv = s.venv := rfl
@[simp] theorem setStatus_pia (n : SockId) (v : Byte) : (s.setStatus n v).pia = s.pia := rfl
@[simp] theorem setStatus_mouse (n : SockId) (v : Byte) : (s.setStatus n v).mouse = s.mouse := rfl
@[simp] theorem setStatus_mouseRom (n : SockId) (v : Byte) : (s.setStatus n v).mouseRom = s.mouseRom := rfl
@[simp] theorem setStatus_params (n : SockId) (v : Byte) : (s.setStatus n v).params = s.params := rfl
@[simp] theorem setStatus_pending (n : SockId) (v : Byte) : (s.setStatus n v).pending = s.pending := rfl
@[simp] theorem setStatus_started (n : SockId) (v : Byte) : (s.setStatus n v).started = s.started := rfl
@[simp] theorem setStatus_delivered (n : SockId) (v : Byte) : (s.setStatus n v).delivered = s.delivered := rfl
@[simp] theorem setStatus_report (n : SockId) (v : Byte) : (s.setStatus n v).report = s.report := rfl
@[simp] theorem setStatus_hostScript (n : SockId) (v : Byte) : (s.setStatus n v).hostScript = s.hostScript := rfl
@[simp] theorem setStatus_hostDraws (n : SockId) (v : Byte) : (s.setStatus n v).hostDraws = s.hostDraws := rfl
@[simp] theorem setStatus_vnetScript (n : SockId) (v : Byte) : (s.setStatus n v).vnetScript = s.vnetScript := rfl
@[simp] theorem setStatus_vnetDraws (n : SockId) (v : Byte) : (s.setStatus n v).vnetDraws = s.vnetDraws := rfl
@[simp] theorem setStatus_resets (n : SockId) (v : Byte) : (s.setStatus n v).resets = s.resets := rfl
@[simp] theorem setStatus_envLog (n : SockId) (v : Byte) : (s.setStatus n v).envLog = s.envLog := rfl

/-! ## setHandle -/

@[simp] theorem setHandle_mem (n : SockId) (h : Option Handle) : (s.setHandle n h).mem = s.mem := rfl
@[simp] theorem setHandle_addrPtr (n : SockId) (h : Option Handle) : (s.setHandle n h).addrPtr = s.addrPtr := rfl
@[simp] theorem setHandle_venv (n : SockId) (h : Option Handle) : (s.setHandle n h).venv = s.venv := rfl
@[simp] theorem setHandle_pia (n : SockId) (h : Option Handle) : (s.setHandle n h).pia = s.pia := rfl
@[simp] theorem setHandle_mouse (n : SockId) (h : Option Handle) : (s.setHandle n h).mouse = s.mouse := rfl
@[simp] theorem setHandle_mouseRom (n : SockId) (h : Option Handle) : (s.setHandle n h).mouseRom = s.mouseRom := rfl
@[simp] theorem setHandle_params (n : SockId) (h : Option Handle) : (s.setHandle n h).params = s.params := rfl
@[simp] theorem setHandle_pending (n : SockId) (h : Option Handle) : (s.setHandle n h).pending = s.pending := rfl
@[simp] theorem setHandle_started (n : SockId) (h : Option Handle) : (s.setHandle n h).started = s.started := rfl
@[simp] theorem setHandle_delivered (n : SockId) (h : Option Handle) : (s.setHandle n h).delivered = s.delivered := rfl
@[simp] theorem setHandle_report (n : SockId) (h : Option Handle) : (s.setHandle n h).report = s.report := rfl
@[simp] theorem setHandle_hostScript (n : SockId) (h : Option Handle) : (s.setHandle n h).hostScript = s.hostScript := rfl
@[simp] theorem setHandle_hostDraws (n : SockId) (h : Option Handle) : (s.setHandle n h).hostDraws = s.hostDraws := rfl
@[simp] theorem setHandle_vnetScript (n : SockId) (h : Option Handle) : (s.setHandle n h).vnetScript = s.vnetScript := rfl
@[simp] theorem setHandle_vnetDraws (n : SockId) (h : Option Handle) : (s.setHandle n h).vnetDraws = s.vnetDraws := rfl
@[simp] theorem setHandle_resets (n : SockId) (h : Option Handle) : (s.setHandle n h).resets = s.resets := rfl
@[simp] theorem setHandle_envLog (n : SockId) (h : Option Handle) : (s.setHandle n h).envLog = s.envLog := rfl

/-! ## setConnecting -/

@[simp] theorem setConnecting_mem (n : SockId) (b : Bool) : (s.setConnecting n b).mem = s.mem := rfl
@[simp] theorem setConnecting_addrPtr (n : SockId) (b : Bool) : (s.setConnecting n b).addrPtr = s.addrPtr := rfl
@[simp] theorem setConnecting_venv (n : SockId) (b : Bool) : (s.setConnecting n b).venv = s.venv := rfl
@[simp] theorem setConnecting_pia (n : SockId) (b : Bool) : (s.setConnecting n b).pia = s.pia := rfl
@[simp] theorem setConnecting_mouse (n : SockId) (b : Bool) : (s.setConnecting n b).mouse = s.mouse := rfl
@[simp] theorem setConnecting_mouseRom (n : SockId) (b : Bool) : (s.setConnecting n b).mouseRom = s.mouseRom := rfl
@[simp] theorem setConnecting_params (n : SockId) (b : Bool) : (s.setConnecting n b).params = s.params := rfl
@[simp] theorem setConnecting_pending (n : SockId) (b : Bool) : (s.setConnecting n b).pending = s.pending := rfl
@[simp] theorem setConnecting_started (n : SockId) (b : Bool) : (s.setConnecting n b).started = s.started := rfl
@[simp] theorem setConnecting_delivered (n : SockId) (b : Bool) : (s.setConnecting n b).delivered = s.delivered := rfl
@[simp] theorem setConnecting_report (n : SockId) (b : Bool) : (s.setConnecting n b).report = s.report := rfl
@[simp] theorem setConnecting_hostScript (n : SockId) (b : Bool) : (s.setConnecting n b).hostScript = s.hostScript := rfl
@[simp] theorem setConnecting_hostDraws (n : SockId) (b : Bool) : (s.setConnecting n b).hostDraws = s.hostDraws := rfl
@[simp] theorem setConnecting_vnetScript (n : SockId) (b : Bool) : (s.setConnecting n b).vnetScript = s.vnetScript := rfl
@[simp] theorem setConnecting_vnetDraws (n : SockId) (b : Bool) : (s.setConnecting n b).vnetDraws = s.vnetDraws := rfl
@[simp] theorem setConnecting_resets (n : SockId) (b : Bool) : (s.setConnecting n b).resets = s.resets := rfl
@[simp] theorem setConnecting_envLog (n : SockId) (b : Bool) : (s.setConnecting n b).envLog = s.envLog := rfl

/-! ## setMacraw -/

@[simp] theorem setMacraw_mem (n : SockId) (b : Bool) : (s.setMacraw n b).mem = s.mem := rfl
@[simp] theorem setMacraw_addrPtr (n : SockId) (b : Bool) : (s.setMacraw n b).addrPtr = s.addrPtr := rfl
@[simp] theorem setMacraw_venv (n : SockId) (b : Bool) : (s.setMacraw n b).venv = s.venv := rfl
@[simp] theorem setMacraw_pia (n : SockId) (b : Bool) : (s.setMacraw n b).pia = s.pia := rfl
@[simp] theorem setMacraw_mouse (n : SockId) (b : Bool) : (s.setMacraw n b).mouse = s.mouse := rfl
@[simp] theorem setMacraw_mouseRom (n : SockId) (b : Bool) : (s.setMacraw n b).mouseRom = s.mouseRom := rfl
@[simp] theorem setMacraw_params (n : SockId) (b : Bool) : (s.setMacraw n b).params = s.params := rfl
@[simp] theorem setMacraw_pending (n : SockId) (b : Bool) : (s.setMacraw n b).pending = s.pending := rfl
@[simp] theorem setMacraw_started (n : SockId) (b : Bool) : (s.setMacraw n b).started = s.started := rfl
@[simp] theorem setMacraw_delivered (n : SockId) (b : Bool) : (s.setMacraw n b).delivered = s.delivered := rfl
@[simp] theorem setMacraw_report (n : SockId) (b : Bool) : (s.setMacraw n b).report = s.report := rfl
@[simp] theorem setMacraw_hostScript (n : SockId) (b : Bool) : (s.setMacraw n b).hostScript = s.hostScript := rfl
@[simp] theorem setMacraw_hostDraws (n : SockId) (b : Bool) : (s.setMacraw n b).hostDraws = s.hostDraws := rfl
@[simp] theorem setMacraw_vnetScript (n : SockId) (b : Bool) : (s.setMacraw n b).vnetScript = s.vnetScript := rfl
@[simp] theorem setMacraw_vnetDraws (n : SockId) (b : Bool) : (s.setMacraw n b).vnetDraws = s.vnetDraws := rfl
@[simp] theorem setMacraw_resets (n : SockId) (b : Bool) : (s.setMacraw n b).resets = s.resets := rfl
@[simp] theorem setMacraw_envLog (n : SockId) (b : Bool) : (s.setMacraw n b).envLog = s.envLog := rfl

/-! ## setFill -/

@[simp] theorem setFill_mem (n : SockId) (h t : Nat) : (s.setFill n h t).mem = s.mem := rfl
@[simp] theorem setFill_addrPtr (n : SockId) (h t : Nat) : (s.setFill n h t).addrPtr = s.addrPtr := rfl
@[simp] theorem setFill_venv (n : SockId) (h t : Nat) : (s.setFill n h t).venv = s.venv := rfl
@[simp] theorem setFill_pia (n : SockId) (h t : Nat) : (s.setFill n h t).pia = s.pia := rfl
@[simp] theorem setFill_mouse (n : SockId) (h t : Nat) : (s.setFill n h t).mouse = s.mouse := rfl
@[simp] theorem setFill_mouseRom (n : SockId) (h t : Nat) : (s.setFill n h t).mouseRom = s.mouseRom := rfl
@[simp] theorem setFill_params (n : SockId) (h t : Nat) : (s.setFill n h t).params = s.params := rfl
@[simp] theorem setFill_pending (n : SockId) (h t : Nat) : (s.setFill n h t).pending = s.pending := rfl
@[simp] theorem setFill_started (n : SockId) (h t : Nat) : (s.setFill n h t).started = s.started := rfl
@[simp] theorem setFill_delivered (n : SockId) (h t : Nat) : (s.setFill n h t).delivered = s.delivered := rfl
@[simp] theorem setFill_report (n : SockId) (h t : Nat) : (s.setFill n h t).report = s.report := rfl
@[simp] theorem setFill_hostScript (n : SockId) (h t : Nat) : (s.setFill n h t).hostScript = s.hostScript := rfl
@[simp] theorem setFill_hostDraws (n : SockId) (h t : Nat) : (s.setFill n h t).hostDraws = s.hostDraws := rfl
@[simp] theorem setFill_vnetScript (n : SockId) (h t : Nat) : (s.setFill n h t).vnetScript = s.vnetScript := rfl
@[simp] theorem setFill_vnetDraws (n : SockId) (h t : Nat) : (s.setFill n h t).vnetDraws = s.vnetDraws := rfl
@[simp] theorem setFill_resets (n : SockId) (h t : Nat) : (s.setFill n h t).resets = s.resets := rfl
@[simp] theorem setFill_envLog (n : SockId) (h t : Nat) : (s.setFill n h t).envLog = s.envLog := rfl

/-! ## storeLease -/

@[simp] theorem storeLease_addrPtr (g m i : Ip) : (s.storeLease g m i).addrPtr = s.addrPtr := rfl
@[simp] theorem storeLease_socks (g m i : Ip) : (s.storeLease g m i).socks = s.socks := rfl
@[simp] theorem storeLease_venv (g m i : Ip) : (s.storeLease g m i).venv = s.venv := rfl
@[simp] theorem storeLease_pia (g m i : Ip) : (s.storeLease g m i).pia = s.pia := rfl
@[simp] theorem storeLease_mouse (g m i : Ip) : (s.storeLease g m i).mouse = s.mouse := rfl
@[simp] theorem storeLease_mouseRom (g m i : Ip) : (s.storeLease g m i).mouseRom = s.mouseRom := rfl
@[simp] theorem storeLease_params (g m i : Ip) : (s.storeLease g m i).params = s.params := rfl
@[simp] theorem storeLease_pending (g m i : Ip) : (s.storeLease g m i).pending = s.pending := rfl
@[simp] theorem storeLease_started (g m i : Ip) : (s.storeLease g m i).started = s.started := rfl
@[simp] theorem storeLease_delivered (g m i : Ip) : (s.storeLease g m i).delivered = s.delivered := rfl
@[simp] theorem storeLease_report (g m i : Ip) : (s.storeLease g m i).report = s.report := rfl
@[simp] theorem storeLease_hostScript (g m i : Ip) : (s.storeLease g m i).hostScript = s.hostScript := rfl
@[simp] theorem storeLease_hostDraws (g m i : Ip) : (s.storeLease g m i).hostDraws = s.hostDraws := rfl
@[simp] theorem storeLease_vnetScript (g m i : Ip) : (s.storeLease g m i).vnetScript = s.vnetScript := rfl
@[simp] theorem storeLease_vnetDraws (g m i : Ip) : (s.storeLease g m i).vnetDraws = s.vnetDraws := rfl
@[simp] theorem storeLease_resets (g m i : Ip) : (s.storeLease g m i).resets = s.resets := rfl
@[simp] theorem storeLease_envLog (g m i : Ip) : (s.storeLease g m i).envLog = s.envLog := rfl

/-! ## stage -/

@[simp] theorem stage_mem (n : SockId) (d : List Byte) : (s.stage n d).mem = s.mem := rfl
@[simp] theorem stage_addrPtr (n : SockId) (d : List Byte) : (s.stage n d).addrPtr = s.addrPtr := rfl
@[simp] theorem stage_venv (n : SockId) (d : List Byte) : (s.stage n d).venv = s.venv := rfl
@[simp] theorem stage_pia (n : SockId) (d : List Byte) : (s.stage n d).pia = s.pia := rfl
@[simp] theorem stage_mouse (n : SockId) (d : List Byte) : (s.stage n d).mouse = s.mouse := rfl
@[simp] theorem stage_mouseRom (n : SockId) (d : List Byte) : (s.stage n d).mouseRom = s.mouseRom := rfl
@[simp] theorem stage_params (n : SockId) (d : List Byte) : (s.stage n d).params = s.params := rfl
@[simp] theorem stage_pending (n : SockId) (d : List Byte) : (s.stage n d).pending = s.pending := rfl
@[simp] theorem stage_started (n : SockId) (d : List Byte) : (s.stage n d).started = s.started := rfl
@[simp] theorem stage_delivered (n : SockId) (d : List Byte) : (s.stage n d).delivered = s.delivered := rfl
@[simp] theorem stage_report (n : SockId) (d : List Byte) : (s.stage n d).report = s.report := rfl
@[simp] theorem stage_hostScript (n : SockId) (d : List Byte) : (s.stage n d).hostScript = s.hostScript := rfl
@[simp] theorem stage_hostDraws (n : SockId) (d : List Byte) : (s.stage n d).hostDraws = s.hostDraws := rfl
@[simp] theorem stage_vnetScript (n : SockId) (d : List Byte) : (s.stage n d).vnetScript = s.vnetScript := rfl
@[simp] theorem stage_vnetDraws (n : SockId) (d : List Byte) : (s.stage n d).vnetDraws = s.vnetDraws := rfl
@[simp] theorem stage_resets (n : SockId) (d : List Byte) : (s.stage n d).resets = s.resets := rfl
@[simp] theorem stage_envLog (n : SockId) (d : List Byte) : (s.stage n d).envLog = s.envLog := rfl

/-! ## storeSlot -/

@[simp] theorem storeSlot_params (c : Card) (k : Nat) : (s.storeSlot c k).params = withSlot s.params c k := rfl
@[simp] theorem storeSlot_mem (c : Card) (k : Nat) : (s.storeSlot c k).mem = s.mem := rfl
@[simp] theorem storeSlot_addrPtr (c : Card) (k : Nat) : (s.storeSlot c k).addrPtr = s.addrPtr := rfl
@[simp] theorem storeSlot_socks (c : Card) (k : Nat) : (s.storeSlot c k).socks = s.socks := rfl
@[simp] theorem storeSlot_venv (c : Card) (k : Nat) : (s.storeSlot c k).venv = s.venv := rfl
@[simp] theorem storeSlot_pia (c : Card) (k : Nat) : (s.storeSlot c k).pia = s.pia := rfl
@[simp] theorem storeSlot_mouse (c : Card) (k : Nat) : (s.storeSlot c k).mouse = s.mouse := rfl
@[simp] theorem storeSlot_mouseRom (c : Card) (k : Nat) : (s.storeSlot c k).mouseRom = s.mouseRom := rfl
@[simp] theorem storeSlot_pending (c : Card) (k : Nat) : (s.storeSlot c k).pending = s.pending := rfl
@[simp] theorem storeSlot_started (c : Card) (k : Nat) : (s.storeSlot c k).started = s.started := rfl
@[simp] theorem storeSlot_delivered (c : Card) (k : Nat) : (s.storeSlot c k).delivered = s.delivered := rfl
@[simp] theorem storeSlot_report (c : Card) (k : Nat) : (s.storeSlot c k).report = s.report := rfl
@[simp] theorem storeSlot_hostScript (c : Card) (k : Nat) : (s.storeSlot c k).hostScript = s.hostScript := rfl
@[simp] theorem storeSlot_hostDraws (c : Card) (k : Nat) : (s.storeSlot c k).hostDraws = s.hostDraws := rfl
@[simp] theorem storeSlot_vnetScript (c : Card) (k : Nat) : (s.storeSlot c k).vnetScript = s.vnetScript := rfl
@[simp] theorem storeSlot_vnetDraws (c : Card) (k : Nat) : (s.storeSlot c k).vnetDraws = s.vnetDraws := rfl
@[simp] theorem storeSlot_resets (c : Card) (k : Nat) : (s.storeSlot c k).resets = s.resets := rfl
@[simp] theorem storeSlot_envLog (c : Card) (k : Nat) : (s.storeSlot c k).envLog = s.envLog := rfl

/-! ## withSlot -/

@[simp] theorem withSlot_mrUdp (p : Params) (c : Card) (k : Nat) : (withSlot p c k).mrUdp = p.mrUdp := by cases c <;> rfl
@[simp] theorem withSlot_mrMacraw (p : Params) (c : Card) (k : Nat) : (withSlot p c k).mrMacraw = p.mrMacraw := by cases c <;> rfl
@[simp] theorem withSlot_mrMask (p : Params) (c : Card) (k : Nat) : (withSlot p c k).mrMask = p.mrMask := by cases c <;> rfl
@[simp] theorem withSlot_rsMap (p : Params) (c : Card) (k : Nat) : (withSlot p c k).rsMap = p.rsMap := by cases c <;> rfl
@[simp] theorem withSlot_uthernet2_u2Slot (p : Params) (k : Nat) : (withSlot p .uthernet2 k).u2Slot = some k := rfl
@[simp] theorem withSlot_uthernet2_mouseSlot (p : Params) (k : Nat) : (withSlot p .uthernet2 k).mouseSlot = p.mouseSlot := rfl
@[simp] theorem withSlot_mouse_u2Slot (p : Params) (k : Nat) : (withSlot p .mouse k).u2Slot = p.u2Slot := rfl
@[simp] theorem withSlot_mouse_mouseSlot (p : Params) (k : Nat) : (withSlot p .mouse k).mouseSlot = some k := rfl

/-! ## nextAnswer -/

@[simp] theorem nextAnswer_mem : s.nextAnswer.2.mem = s.mem := by unfold State.nextAnswer; split <;> rfl
@[simp] theorem nextAnswer_addrPtr : s.nextAnswer.2.addrPtr = s.addrPtr := by unfold State.nextAnswer; split <;> rfl
@[simp] theorem nextAnswer_socks : s.nextAnswer.2.socks = s.socks := by unfold State.nextAnswer; split <;> rfl
@[simp] theorem nextAnswer_venv : s.nextAnswer.2.venv = s.venv := by unfold State.nextAnswer; split <;> rfl
@[simp] theorem nextAnswer_pia : s.nextAnswer.2.pia = s.pia := by unfold State.nextAnswer; split <;> rfl
@[simp] theorem nextAnswer_mouse : s.nextAnswer.2.mouse = s.mouse := by unfold State.nextAnswer; split <;> rfl
@[simp] theorem nextAnswer_mouseRom : s.nextAnswer.2.mouseRom = s.mouseRom := by unfold State.nextAnswer; split <;> rfl
@[simp] theorem nextAnswer_params : s.nextAnswer.2.params = s.params := by unfold State.nextAnswer; split <;> rfl
@[simp] theorem nextAnswer_pending : s.nextAnswer.2.pending = s.pending := by unfold State.nextAnswer; split <;> rfl
@[simp] theorem nextAnswer_started : s.nextAnswer.2.started = s.started := by unfold State.nextAnswer; split <;> rfl
@[simp] theorem nextAnswer_delivered : s.nextAnswer.2.delivered = s.delivered := by unfold State.nextAnswer; split <;> rfl
@[simp] theorem nextAnswer_report : s.nextAnswer.2.report = s.report := by unfold State.nextAnswer; split <;> rfl
@[simp] theorem nextAnswer_vnetScript : s.nextAnswer.2.vnetScript = s.vnetScript := by unfold State.nextAnswer; split <;> rfl
@[simp] theorem nextAnswer_vnetDraws : s.nextAnswer.2.vnetDraws = s.vnetDraws := by unfold State.nextAnswer; split <;> rfl
@[simp] theorem nextAnswer_resets : s.nextAnswer.2.resets = s.resets := by unfold State.nextAnswer; split <;> rfl
@[simp] theorem nextAnswer_envLog : s.nextAnswer.2.envLog = s.envLog := by unfold State.nextAnswer; split <;> rfl

/-! ## nextVNet -/

@[simp] theorem nextVNet_mem : s.nextVNet.2.mem = s.mem := by unfold State.nextVNet; split <;> rfl
@[simp] theorem nextVNet_addrPtr : s.nextVNet.2.addrPtr = s.addrPtr := by unfold State.nextVNet; split <;> rfl
@[simp] theorem nextVNet_socks : s.nextVNet.2.socks = s.socks := by unfold State.nextVNet; split <;> rfl
@[simp] theorem nextVNet_venv : s.nextVNet.2.venv = s.venv := by unfold State.nextVNet; split <;> rfl
@[simp] theorem nextVNet_pia : s.nextVNet.2.pia = s.pia := by unfold State.nextVNet; split <;> rfl
@[simp] theorem nextVNet_mouse : s.nextVNet.2.mouse = s.mouse := by unfold State.nextVNet; split <;> rfl
@[simp] theorem nextVNet_mouseRom : s.nextVNet.2.mouseRom = s.mouseRom := by unfold State.nextVNet; split <;> rfl
@[simp] theorem nextVNet_params : s.nextVNet.2.params = s.params := by unfold State.nextVNet; split <;> rfl
@[simp] theorem nextVNet_pending : s.nextVNet.2.pending = s.pending := by unfold State.nextVNet; split <;> rfl
@[simp] theorem nextVNet_started : s.nextVNet.2.started = s.started := by unfold State.nextVNet; split <;> rfl
@[simp] theorem nextVNet_delivered : s.nextVNet.2.delivered = s.delivered := by unfold State.nextVNet; split <;> rfl
@[simp] theorem nextVNet_report : s.nextVNet.2.report = s.report := by unfold State.nextVNet; split <;> rfl
@[simp] theorem nextVNet_hostScript : s.nextVNet.2.hostScript = s.hostScript := by unfold State.nextVNet; split <;> rfl
@[simp] theorem nextVNet_hostDraws : s.nextVNet.2.hostDraws = s.hostDraws := by unfold State.nextVNet; split <;> rfl
@[simp] theorem nextVNet_resets : s.nextVNet.2.resets = s.resets := by unfold State.nextVNet; split <;> rfl
@[simp] theorem nextVNet_envLog : s.nextVNet.2.envLog = s.envLog := by unfold State.nextVNet; split <;> rfl

/-! ## ask -/

@[simp] theorem ask_mem (c : EnvCall) : (s.ask c).2.mem = s.mem := by simp [State.ask]
@[simp] theorem ask_addrPtr (c : EnvCall) : (s.ask c).2.addrPtr = s.addrPtr := by simp [State.ask]
@[simp] theorem ask_socks (c : EnvCall) : (s.ask c).2.socks = s.socks := by simp [State.ask]
@[simp] theorem ask_venv (c : EnvCall) : (s.ask c).2.venv = s.venv := by simp [State.ask]
@[simp] theorem ask_pia (c : EnvCall) : (s.ask c).2.pia = s.pia := by simp [State.ask]
@[simp] theorem ask_mouse (c : EnvCall) : (s.ask c).2.mouse = s.mouse := by simp [State.ask]
@[simp] theorem ask_mouseRom (c : EnvCall) : (s.ask c).2.mouseRom = s.mouseRom := by simp [State.ask]
@[simp] theorem ask_params (c : EnvCall) : (s.ask c).2.params = s.params := by simp [State.ask]
@[simp] theorem ask_pending (c : EnvCall) : (s.ask c).2.pending = s.pending := by simp [State.ask]
@[simp] theorem ask_started (c : EnvCall) : (s.ask c).2.started = s.started := by simp [State.ask]
@[simp] theorem ask_delivered (c : EnvCall) : (s.ask c).2.delivered = s.delivered := by simp [State.ask]
@[simp] theorem ask_report (c : EnvCall) : (s.ask c).2.report = s.report := by simp [State.ask]
@[simp] theorem ask_vnetScript (c : EnvCall) : (s.ask c).2.vnetScript = s.vnetScript := by simp [State.ask]
@[simp] theorem ask_vnetDraws (c : EnvCall) : (s.ask c).2.vnetDraws = s.vnetDraws := by simp [State.ask]
@[simp] theorem ask_resets (c : EnvCall) : (s.ask c).2.resets = s.resets := by simp [State.ask]

/-! ## hostClose -/

@[simp] theorem hostClose_mem (h : Handle) : (s.hostClose h).mem = s.mem := by unfold State.hostClose; split <;> rfl
@[simp] theorem hostClose_addrPtr (h : Handle) : (s.hostClose h).addrPtr = s.addrPtr := by unfold State.hostClose; split <;> rfl
@[simp] theorem hostClose_socks (h : Handle) : (s.hostClose h).socks = s.socks := by unfold State.hostClose; split <;> rfl
@[simp] theorem hostClose_venv (h : Handle) : (s.hostClose h).venv = s.venv := by unfold State.hostClose; split <;> rfl
@[simp] theorem hostClose_pia (h : Handle) : (s.hostClose h).pia = s.pia := by unfold State.hostClose; split <;> rfl
@[simp] theorem hostClose_mouse (h : Handle) : (s.hostClose h).mouse = s.mouse := by unfold State.hostClose; split <;> rfl
@[simp] theorem hostClose_mouseRom (h : Handle) : (s.hostClose h).mouseRom = s.mouseRom := by unfold State.hostClose; split <;> rfl
@[simp] theorem hostClose_params (h : Handle) : (s.hostClose h).params = s.params := by unfold State.hostClose; split <;> rfl
@[simp] theorem hostClose_pending (h : Handle) : (s.hostClose h).pending = s.pending := by unfold State.hostClose; split <;> rfl
@[simp] theorem hostClose_started (h : Handle) : (s.hostClose h).started = s.started := by unfold State.hostClose; split <;> rfl
@[simp] theorem hostClose_delivered (h : Handle) : (s.hostClose h).delivered = s.delivered := by unfold State.hostClose; split <;> rfl
@[simp] theorem hostClose_report (h : Handle) : (s.hostClose h).report = s.report := by unfold State.hostClose; split <;> rfl
@[simp] theorem hostClose_hostScript (h : Handle) : (s.hostClose h).hostScript = s.hostScript := by unfold State.hostClose; split <;> rfl
@[simp] theorem hostClose_hostDraws (h : Handle) : (s.hostClose h).hostDraws = s.hostDraws := by unfold State.hostClose; split <;> rfl
@[simp] theorem hostClose_vnetScript (h : Handle) : (s.hostClose h).vnetScript = s.vnetScript := by unfold State.hostClose; split <;> rfl
@[simp] theorem hostClose_vnetDraws (h : Handle) : (s.hostClose h).vnetDraws = s.vnetDraws := by unfold State.hostClose; split <;> rfl
@[simp] theorem hostClose_resets (h : Handle) : (s.hostClose h).resets = s.resets := by unfold State.hostClose; split <;> rfl

/-! ## release -/

@[simp] theorem release_mem (n : SockId) : (s.release n).mem = s.mem := by unfold State.release; split <;> simp
@[simp] theorem release_addrPtr (n : SockId) : (s.release n).addrPtr = s.addrPtr := by unfold State.release; split <;> simp
@[simp] theorem release_venv (n : SockId) : (s.release n).venv = s.venv := by unfold State.release; split <;> simp
@[simp] theorem release_pia (n : SockId) : (s.release n).pia = s.pia := by unfold State.release; split <;> simp
@[simp] theorem release_mouse (n : SockId) : (s.release n).mouse = s.mouse := by unfold State.release; split <;> simp
@[simp] theorem release_mouseRom (n : SockId) : (s.release n).mouseRom = s.mouseRom := by unfold State.release; split <;> simp
@[simp] theorem release_params (n : SockId) : (s.release n).params = s.params := by unfold State.release; split <;> simp
@[simp] theorem release_pending (n : SockId) : (s.release n).pending = s.pending := by unfold State.release; split <;> simp
@[simp] theorem release_started (n : SockId) : (s.release n).started = s.started := by unfold State.release; split <;> simp
@[simp] theorem release_delivered (n : SockId) : (s.release n).delivered = s.delivered := by unfold State.release; split <;> simp
@[simp] theorem release_report (n : SockId) : (s.release n).report = s.report := by unfold State.release; split <;> simp
@[simp] theorem release_hostScript (n : SockId) : (s.release n).hostScript = s.hostScript := by unfold State.release; split <;> simp
@[simp] theorem release_hostDraws (n : SockId) : (s.release n).hostDraws = s.hostDraws := by unfold State.release; split <;> simp
@[simp] theorem release_vnetScript (n : SockId) : (s.release n).vnetScript = s.vnetScript := by unfold State.release; split <;> simp
@[simp] theorem release_vnetDraws (n : SockId) : (s.release n).vnetDraws = s.vnetDraws := by unfold State.release; split <;> simp
@[simp] theorem release_resets (n : SockId) : (s.release n).resets = s.resets := by unfold State.release; split <;> simp

/-! ## dropFlow -/

@[simp] theorem dropFlow_mem : s.dropFlow.mem = s.mem := by unfold State.dropFlow; split <;> simp
@[simp] theorem dropFlow_addrPtr : s.dropFlow.addrPtr = s.addrPtr := by unfold State.dropFlow; split <;> simp
@[simp] theorem dropFlow_socks : s.dropFlow.socks = s.socks := by unfold State.dropFlow; split <;> simp
@[simp] theorem dropFlow_pia : s.dropFlow.pia = s.pia := by unfold State.dropFlow; split <;> simp
@[simp] theorem dropFlow_mouse : s.dropFlow.mouse = s.mouse := by unfold State.dropFlow; split <;> simp
@[simp] theorem dropFlow_mouseRom : s.dropFlow.mouseRom = s.mouseRom := by unfold State.dropFlow; split <;> simp
@[simp] theorem dropFlow_params : s.dropFlow.params = s.params := by unfold State.dropFlow; split <;> simp
@[simp] theorem dropFlow_pending : s.dropFlow.pending = s.pending := by unfold State.dropFlow; split <;> simp
@[simp] theorem dropFlow_started : s.dropFlow.started = s.started := by unfold State.dropFlow; split <;> simp
@[simp] theorem dropFlow_delivered : s.dropFlow.delivered = s.delivered := by unfold State.dropFlow; split <;> simp
@[simp] theorem dropFlow_report : s.dropFlow.report = s.report := by unfold State.dropFlow; split <;> simp
@[simp] theorem dropFlow_hostScript : s.dropFlow.hostScript = s.hostScript := by unfold State.dropFlow; split <;> simp
@[simp] theorem dropFlow_hostDraws : s.dropFlow.hostDraws = s.hostDraws := by unfold State.dropFlow; split <;> simp
@[simp] theorem dropFlow_vnetScript : s.dropFlow.vnetScript = s.vnetScript := by unfold State.dropFlow; split <;> simp
@[simp] theorem dropFlow_vnetDraws : s.dropFlow.vnetDraws = s.vnetDraws := by unfold State.dropFlow; split <;> simp
@[simp] theorem dropFlow_resets : s.dropFlow.resets = s.resets := by unfold State.dropFlow; split <;> simp

/-! ## setEnv -/

@[simp] theorem setEnv_mem (e : Option VEnv) : (s.setEnv e).mem = s.mem := by unfold State.setEnv; split <;> rfl
@[simp] theorem setEnv_addrPtr (e : Option VEnv) : (s.setEnv e).addrPtr = s.addrPtr := by unfold State.setEnv; split <;> rfl
@[simp] theorem setEnv_socks (e : Option VEnv) : (s.setEnv e).socks = s.socks := by unfold State.setEnv; split <;> rfl
@[simp] theorem setEnv_pia (e : Option VEnv) : (s.setEnv e).pia = s.pia := by unfold State.setEnv; split <;> rfl
@[simp] theorem setEnv_mouse (e : Option VEnv) : (s.setEnv e).mouse = s.mouse := by unfold State.setEnv; split <;> rfl
@[simp] theorem setEnv_mouseRom (e : Option VEnv) : (s.setEnv e).mouseRom = s.mouseRom := by unfold State.setEnv; split <;> rfl
@[simp] theorem setEnv_params (e : Option VEnv) : (s.setEnv e).params = s.params := by unfold State.setEnv; split <;> rfl
@[simp] theorem setEnv_pending (e : Option VEnv) : (s.setEnv e).pending = s.pending := by unfold State.setEnv; split <;> rfl
@[simp] theorem setEnv_started (e : Option VEnv) : (s.setEnv e).started = s.started := by unfold State.setEnv; split <;> rfl
@[simp] theorem setEnv_delivered (e : Option VEnv) : (s.setEnv e).delivered = s.delivered := by unfold State.setEnv; split <;> rfl
@[simp] theorem setEnv_report (e : Option VEnv) : (s.setEnv e).report = s.report := by unfold State.setEnv; split <;> rfl
@[simp] theorem setEnv_hostScript (e : Option VEnv) : (s.setEnv e).hostScript = s.hostScript := by unfold State.setEnv; split <;> rfl
@[simp] theorem setEnv_hostDraws (e : Option VEnv) : (s.setEnv e).hostDraws = s.hostDraws := by unfold State.setEnv; split <;> rfl
@[simp] theorem setEnv_vnetScript (e : Option VEnv) : (s.setEnv e).vnetScript = s.vnetScript := by unfold State.setEnv; split <;> rfl
@[simp] theorem setEnv_vnetDraws (e : Option VEnv) : (s.setEnv e).vnetDraws = s.vnetDraws := by unfold State.setEnv; split <;> rfl
@[simp] theorem setEnv_resets (e : Option VEnv) : (s.setEnv e).resets = s.resets := by unfold State.setEnv; split <;> rfl
@[simp] theorem setEnv_envLog (e : Option VEnv) : (s.setEnv e).envLog = s.envLog := by unfold State.setEnv; split <;> rfl

/-! ## postIncrement -/

@[simp] theorem postIncrement_mem : s.postIncrement.mem = s.mem := by unfold State.postIncrement; split <;> rfl
@[simp] theorem postIncrement_socks : s.postIncrement.socks = s.socks := by unfold State.postIncrement; split <;> rfl
@[simp] theorem postIncrement_venv : s.postIncrement.venv = s.venv := by unfold State.postIncrement; split <;> rfl
@[simp] theorem postIncrement_pia : s.postIncrement.pia = s.pia := by unfold State.postIncrement; split <;> rfl
@[simp] theorem postIncrement_mouse : s.postIncrement.mouse = s.mouse := by unfold State.postIncrement; split <;> rfl
@[simp] theorem postIncrement_mouseRom : s.postIncrement.mouseRom = s.mouseRom := by unfold State.postIncrement; split <;> rfl
@[simp] theorem postIncrement_params : s.postIncrement.params = s.params := by unfold State.postIncrement; split <;> rfl
@[simp] theorem postIncrement_pending : s.postIncrement.pending = s.pending := by unfold State.postIncrement; split <;> rfl
@[simp] theorem postIncrement_started : s.postIncrement.started = s.started := by unfold State.postIncrement; split <;> rfl
@[simp] theorem postIncrement_delivered : s.postIncrement.delivered = s.delivered := by unfold State.postIncrement; split <;> rfl
@[simp] theorem postIncrement_report : s.postIncrement.report = s.report := by unfold State.postIncrement; split <;> rfl
@[simp] theorem postIncrement_hostScript : s.postIncrement.hostScript = s.hostScript := by unfold State.postIncrement; split <;> rfl
@[simp] theorem postIncrement_hostDraws : s.postIncrement.hostDraws = s.hostDraws := by unfold State.postIncrement; split <;> rfl
@[simp] theorem postIncrement_vnetScript : s.postIncrement.vnetScript = s.vnetScript := by unfold State.postIncrement; split <;> rfl
@[simp] theorem postIncrement_vnetDraws : s.postIncrement.vnetDraws = s.vnetDraws := by unfold State.postIncrement; split <;> rfl
@[simp] theorem postIncrement_resets : s.postIncrement.resets = s.resets := by unfold State.postIncrement; split <;> rfl
@[simp] theorem postIncrement_envLog : s.postIncrement.envLog = s.envLog := by unfold State.postIncrement; split <;> rfl

/-! ## rxInject -/

@[simp] theorem rxInject_mem (n : SockId) (f : Frame) : (s.rxInject n f).mem = s.mem := by unfold State.rxInject; simp only []; split <;> rfl
@[simp] theorem rxInject_addrPtr (n : SockId) (f : Frame) : (s.rxInject n f).addrPtr = s.addrPtr := by unfold State.rxInject; simp only []; split <;> rfl
@[simp] theorem rxInject_venv (n : SockId) (f : Frame) : (s.rxInject n f).venv = s.venv := by unfold State.rxInject; simp only []; split <;> rfl
@[simp] theorem rxInject_pia (n : SockId) (f : Frame) : (s.rxInject n f).pia = s.pia := by unfold State.rxInject; simp only []; split <;> rfl
@[simp] theorem rxInject_mouse (n : SockId) (f : Frame) : (s.rxInject n f).mouse = s.mouse := by unfold State.rxInject; simp only []; split <;> rfl
@[simp] theorem rxInject_mouseRom (n : SockId) (f : Frame) : (s.rxInject n f).mouseRom = s.mouseRom := by unfold State.rxInject; simp only []; split <;> rfl
@[simp] theorem rxInject_params (n : SockId) (f : Frame) : (s.rxInject n f).params = s.params := by unfold State.rxInject; simp only []; split <;> rfl
@[simp] theorem rxInject_pending (n : SockId) (f : Frame) : (s.rxInject n f).pending = s.pending := by unfold State.rxInject; simp only []; split <;> rfl
@[simp] theorem rxInject_started (n : SockId) (f : Frame) : (s.rxInject n f).started = s.started := by unfold State.rxInject; simp only []; split <;> rfl
@[simp] theorem rxInject_delivered (n : SockId) (f : Frame) : (s.rxInject n f).delivered = s.delivered := by unfold State.rxInject; simp only []; split <;> rfl
@[simp] theorem rxInject_report (n : SockId) (f : Frame) : (s.rxInject n f).report = s.report := by unfold State.rxInject; simp only []; split <;> rfl
@[simp] theorem rxInject_hostScript (n : SockId) (f : Frame) : (s.rxInject n f).hostScript = s.hostScript := by unfold State.rxInject; simp only []; split <;> rfl
@[simp] theorem rxInject_hostDraws (n : SockId) (f : Frame) : (s.rxInject n f).hostDraws = s.hostDraws := by unfold State.rxInject; simp only []; split <;> rfl
@[simp] theorem rxInject_vnetScript (n : SockId) (f : Frame) : (s.rxInject n f).vnetScript = s.vnetScript := by unfold State.rxInject; simp only []; split <;> rfl
@[simp] theorem rxInject_vnetDraws (n : SockId) (f : Frame) : (s.rxInject n f).vnetDraws = s.vnetDraws := by unfold State.rxInject; simp only []; split <;> rfl
@[simp] theorem rxInject_resets (n : SockId) (f : Frame) : (s.rxInject n f).resets = s.resets := by unfold State.rxInject; simp only []; split <;> rfl
@[simp] theorem rxInject_envLog (n : SockId) (f : Frame) : (s.rxInject n f).envLog = s.envLog := by unfold State.rxInject; simp only []; split <;> rfl

/-! ## rxInjectAll -/

@[simp] theorem rxInjectAll_mem (s : State) (n : SockId) (l : List Frame) : (s.rxInjectAll n l).mem = s.mem := by
  induction l generalizing s with
  | nil => rfl
  | cons a t ih => simp [State.rxInjectAll, ih]
@[simp] theorem rxInjectAll_addrPtr (s : State) (n : SockId) (l : List Frame) : (s.rxInjectAll n l).addrPtr = s.addrPtr := by
  induction l generalizing s with
  | nil => rfl
  | cons a t ih => simp [State.rxInjectAll, ih]
@[simp] theorem rxInjectAll_venv (s : State) (n : SockId) (l : List Frame) : (s.rxInjectAll n l).venv = s.venv := by
  induction l generalizing s with
  | nil => rfl
  | cons a t ih => simp [State.rxInjectAll, ih]
@[simp] theorem rxInjectAll_pia (s : State) (n : SockId) (l : List Frame) : (s.rxInjectAll n l).pia = s.pia := by
  induction l generalizing s with
  | nil => rfl
  | cons a t ih => simp [State.rxInjectAll, ih]
@[simp] theorem rxInjectAll_mouse (s : State) (n : SockId) (l : List Frame) : (s.rxInjectAll n l).mouse = s.mouse := by
  induction l generalizing s with
  | nil => rfl
  | cons a t ih => simp [State.rxInjectAll, ih]
@[simp] theorem rxInjectAll_mouseRom (s : State) (n : SockId) (l : List Frame) : (s.rxInjectAll n l).mouseRom = s.mouseRom := by
  induction l generalizing s with
  | nil => rfl
  | cons a t ih => simp [State.rxInjectAll, ih]
@[simp] theorem rxInjectAll_params (s : State) (n : SockId) (l : List Frame) : (s.rxInjectAll n l).params = s.params := by
  induction l generalizing s with
  | nil => rfl
  | cons a t ih => simp [State.rxInjectAll, ih]
@[simp] theorem rxInjectAll_pending (s : State) (n : SockId) (l : List Frame) : (s.rxInjectAll n l).pending = s.pending := by
  induction l generalizing s with
  | nil => rfl
  | cons a t ih => simp [State.rxInjectAll, ih]
@[simp] theorem rxInjectAll_started (s : State) (n : SockId) (l : List Frame) : (s.rxInjectAll n l).started = s.started := by
  induction l generalizing s with
  | nil => rfl
  | cons a t ih => simp [State.rxInjectAll, ih]
@[simp] theorem rxInjectAll_delivered (s : State) (n : SockId) (l : List Frame) : (s.rxInjectAll n l).delivered = s.delivered := by
  induction l generalizing s with
  | nil => rfl
  | cons a t ih => simp [State.rxInjectAll, ih]
@[simp] theorem rxInjectAll_report (s : State) (n : SockId) (l : List Frame) : (s.rxInjectAll n l).report = s.report := by
  induction l generalizing s with
  | nil => rfl
  | cons a t ih => simp [State.rxInjectAll, ih]
@[simp] theorem rxInjectAll_hostScript (s : State) (n : SockId) (l : List Frame) : (s.rxInjectAll n l).hostScript = s.hostScript := by
  induction l generalizing s with
  | nil => rfl
  | cons a t ih => simp [State.rxInjectAll, ih]
@[simp] theorem rxInjectAll_hostDraws (s : State) (n : SockId) (l : List Frame) : (s.rxInjectAll n l).hostDraws = s.hostDraws := by
  induction l generalizing s with
  | nil => rfl
  | cons a t ih => simp [State.rxInjectAll, ih]
@[simp] theorem rxInjectAll_vnetScript (s : State) (n : SockId) (l : List Frame) : (s.rxInjectAll n l).vnetScript = s.vnetScript := by
  induction l generalizing s with
  | nil => rfl
  | cons a t ih => simp [State.rxInjectAll, ih]
@[simp] theorem rxInjectAll_vnetDraws (s : State) (n : SockId) (l : List Frame) : (s.rxInjectAll n l).vnetDraws = s.vnetDraws := by
  induction l generalizing s with
  | nil => rfl
  | cons a t ih => simp [State.rxInjectAll, ih]
@[simp] theorem rxInjectAll_resets (s : State) (n : SockId) (l : List Frame) : (s.rxInjectAll n l).resets = s.resets := by
  induction l generalizing s with
  | nil => rfl
  | cons a t ih => simp [State.rxInjectAll, ih]
@[simp] theorem rxInjectAll_envLog (s : State) (n : SockId) (l : List Frame) : (s.rxInjectAll n l).envLog = s.envLog := by
  induction l generalizing s with
  | nil => rfl
  | cons a t ih => simp [State.rxInjectAll, ih]

/-! ## The changed fields of the plain updates -/

@[simp] theorem poke_mem (a : Nat) (v : Byte) : (s.poke a v).mem = s.mem.write imageDefault a v := rfl
@[simp] theorem setSock_socks (n : SockId) (x : Sock) : (s.setSock n x).socks = s.socks.set n x := rfl
@[simp] theorem logCall_envLog (c : EnvCall) : (s.logCall c).envLog = c :: s.envLog := rfl
@[simp] theorem deliver_delivered (b : Byte) : (s.deliver b).delivered = some b := rfl
@[simp] theorem take_pending (r : Request) (rest : List Request) : (s.take r rest).pending = rest := rfl
@[simp] theorem take_started (r : Request) (rest : List Request) :
    (s.take r rest).started = (s.started || r.isAccess) := rfl
@[simp] theorem withRequest_pending (r : Request) : (s.withRequest r).pending = r :: s.pending := rfl
@[simp] theorem nextAnswer_hostDraws : s.nextAnswer.2.hostDraws = s.hostDraws + 1 := by
  unfold State.nextAnswer; split <;> rfl
@[simp] theorem nextVNet_vnetDraws : s.nextVNet.2.vnetDraws = s.vnetDraws + 1 := by
  unfold State.nextVNet; split <;> rfl
@[simp] theorem ask_hostDraws (c : EnvCall) : (s.ask c).2.hostDraws = s.hostDraws + 1 := by
  simp [State.ask]
@[simp] theorem ask_envLog (c : EnvCall) : (s.ask c).2.envLog = c :: s.envLog := by simp [State.ask]
@[simp] theorem dropFlow_venv : s.dropFlow.venv = { s.venv with vtcp := none } := by
  unfold State.dropFlow; split <;> simp

end Sys2Proof.Machine
end

