-- ==== Sys2Proof/Laws/Ops.lean ====
section
/-! SUPPORT. The shared operations: what each does to the image, to the sockets, to the handles and to the rest of the state. -/

namespace Sys2Proof.Machine

/-! ## Bytes -/

@[simp] theorem word16_hiByte_loByte (v : Word16) : word16 (hiByte v) (loByte v) = v := by
  unfold word16 hiByte loByte
  ext i hi
  simp only [BitVec.getElem_append, BitVec.getElem_extractLsb']
  split_ifs <;> simp <;> grind

@[simp] theorem hiByte_word16 (h l : Byte) : hiByte (word16 h l) = h := by
  unfold word16 hiByte
  ext i hi
  have := BitVec.getLsbD_append (x := h) (y := l) (i := 8 + i)
  simp at this ⊢
  exact this.trans (by grind)

@[simp] theorem loByte_word16 (h l : Byte) : loByte (word16 h l) = l := by
  unfold word16 loByte
  ext i hi
  have := BitVec.getLsbD_append (x := h) (y := l) (i := i)
  simp [hi] at this ⊢
  exact this.trans (by grind)

/-- The four octets of an address make it up. -/
theorem ipOf_octets (ip : Ip) :
    ipOf (ip.extractLsb' 24 8) (ip.extractLsb' 16 8) (ip.extractLsb' 8 8) (ip.extractLsb' 0 8) = ip := by
  unfold ipOf
  ext i hi
  simp only [BitVec.getElem_append, BitVec.getElem_extractLsb']
  split_ifs <;> simp <;> grind

/-! ## Sockets -/

@[simp] theorem Sockets.get_set_same (k : Sockets) (n : SockId) (x : Sock) : (k.set n x).get n = x := by
  fin_cases n <;> rfl

@[simp] theorem Sockets.get_set_other (k : Sockets) (n m : SockId) (x : Sock) (h : m ≠ n) :
    (k.set n x).get m = k.get m := by
  fin_cases n <;> fin_cases m <;> first | rfl | exact absurd rfl h

/-- Four sockets that agree one by one are the same. -/
theorem Sockets.ext_get (j k : Sockets) (h : ∀ n, j.get n = k.get n) : j = k := by
  obtain ⟨a, b, c, d⟩ := j
  obtain ⟨a', b', c', d'⟩ := k
  have h0 : a = a' := h 0
  have h1 : b = b' := h 1
  have h2 : c = c' := h 2
  have h3 : d = d' := h 3
  rw [h0, h1, h2, h3]

theorem mem_handles_iff (k : Sockets) (h : Handle) :
    h ∈ k.handles ↔ ∃ n, (k.get n).handle = some h := by
  constructor
  · intro hm
    simp only [Sockets.handles, List.mem_append, Option.mem_toList] at hm
    rcases hm with ((hm | hm) | hm) | hm
    · exact ⟨0, hm⟩
    · exact ⟨1, hm⟩
    · exact ⟨2, hm⟩
    · exact ⟨3, hm⟩
  · rintro ⟨n, hn⟩
    simp only [Sockets.handles, List.mem_append, Option.mem_toList]
    fin_cases n
    · exact .inl (.inl (.inl hn))
    · exact .inl (.inl (.inr hn))
    · exact .inl (.inr hn)
    · exact .inr hn

variable (s : State)

/-! ## Reading after writing -/

/-- The byte at `b` after a store at `a`. -/
theorem peek_poke (a b : Nat) (v : Byte) : (s.poke a v).peek b = if b = a then v else s.peek b := by
  simp [State.peek, Memory.read_write]

@[simp] theorem peek_poke_same (a : Nat) (v : Byte) : (s.poke a v).peek a = v := by simp [peek_poke]

/-- The byte at `b` after a 16-bit store at `a`. -/
theorem peek_put16 (a b : Nat) (v : Word16) :
    (s.put16 a v).peek b = if b = a + 1 then loByte v else if b = a then hiByte v else s.peek b := by
  simp [State.put16, peek_poke]

@[simp] theorem get16_put16_same (a : Nat) (v : Word16) : (s.put16 a v).get16 a = v := by
  simp [State.get16, peek_put16]

/-- The byte at `b` after four octets are stored at `a`. -/
theorem peek_putIp (a b : Nat) (ip : Ip) :
    (s.putIp a ip).peek b =
      if b = a + 3 then ip.extractLsb' 0 8 else if b = a + 2 then ip.extractLsb' 8 8
      else if b = a + 1 then ip.extractLsb' 16 8 else if b = a then ip.extractLsb' 24 8
      else s.peek b := by
  simp only [State.putIp, peek_poke]

/-- Four octets are stored where they are, and nowhere else. -/
theorem peek_putIp_other (a b : Nat) (ip : Ip) (h : b < a ∨ a + 4 ≤ b) :
    (s.putIp a ip).peek b = s.peek b := by
  rw [peek_putIp, if_neg (by omega), if_neg (by omega), if_neg (by omega), if_neg (by omega)]

@[simp] theorem getIp_putIp_same (a : Nat) (ip : Ip) : (s.putIp a ip).getIp a = ip := by
  simp [State.getIp, peek_putIp, ipOf_octets]

/-- The byte at `b` after a status is stored. -/
theorem peek_setStatus (n : SockId) (v : Byte) (b : Nat) :
    (s.setStatus n v).peek b = if b = snSr n then v else s.peek b := peek_poke s _ b v

theorem snSr_inj {m n : SockId} : snSr m = snSr n ↔ m = n := by
  unfold snSr sockBase
  constructor
  · intro h; ext; omega
  · rintro rfl; rfl

/-- The status of socket `m` after one of `n` is stored. -/
theorem status_setStatus (n m : SockId) (v : Byte) :
    (s.setStatus n v).status m = if m = n then v else s.status m := by
  simp [State.status, peek_setStatus, snSr_inj]

/-! ## The sockets after an update -/

/-- Socket `m` after socket `n` is replaced. -/
theorem sock_setSock (n m : SockId) (x : Sock) :
    (s.setSock n x).sock m = if m = n then x else s.sock m := by
  by_cases h : m = n
  · subst h; simp [State.sock]
  · simp [State.sock, h]

theorem sock_setHandle (n m : SockId) (h : Option Handle) :
    (s.setHandle n h).sock m = if m = n then { s.sock n with handle := h } else s.sock m :=
  sock_setSock s n m _

theorem sock_setConnecting (n m : SockId) (b : Bool) :
    (s.setConnecting n b).sock m = if m = n then { s.sock n with connecting := b } else s.sock m :=
  sock_setSock s n m _

theorem sock_setMacraw (n m : SockId) (b : Bool) :
    (s.setMacraw n b).sock m = if m = n then { s.sock n with macraw := b } else s.sock m :=
  sock_setSock s n m _

theorem sock_setFill (n m : SockId) (h t : Nat) :
    (s.setFill n h t).sock m = if m = n then { s.sock n with rxHead := h, rxTail := t } else s.sock m :=
  sock_setSock s n m _

/-! ## The image, the sockets and the rest under each update -/

@[simp] theorem poke_sock (a : Nat) (v : Byte) (k : SockId) : (s.poke a v).sock k = s.sock k := by simp [State.sock]
@[simp] theorem poke_aside (a : Nat) (v : Byte) : (s.poke a v).aside = s.aside := by simp [State.aside]
@[simp] theorem setSock_peek (n : SockId) (y : Sock) (x : Nat) : (s.setSock n y).peek x = s.peek x := by simp [State.peek]
@[simp] theorem setSock_get16 (n : SockId) (y : Sock) (x : Nat) : (s.setSock n y).get16 x = s.get16 x := by simp [State.get16]
@[simp] theorem setSock_aside (n : SockId) (y : Sock) : (s.setSock n y).aside = s.aside := by simp [State.aside]
@[simp] theorem logCall_peek (c : EnvCall) (x : Nat) : (s.logCall c).peek x = s.peek x := by simp [State.peek]
@[simp] theorem logCall_get16 (c : EnvCall) (x : Nat) : (s.logCall c).get16 x = s.get16 x := by simp [State.get16]
@[simp] theorem logCall_sock (c : EnvCall) (k : SockId) : (s.logCall c).sock k = s.sock k := by simp [State.sock]
@[simp] theorem logCall_aside (c : EnvCall) : (s.logCall c).aside = s.aside := by simp [State.aside]
@[simp] theorem deliver_peek (b : Byte) (x : Nat) : (s.deliver b).peek x = s.peek x := by simp [State.peek]
@[simp] theorem deliver_get16 (b : Byte) (x : Nat) : (s.deliver b).get16 x = s.get16 x := by simp [State.get16]
@[simp] theorem deliver_sock (b : Byte) (k : SockId) : (s.deliver b).sock k = s.sock k := by simp [State.sock]
@[simp] theorem take_peek (r : Request) (rest : List Request) (x : Nat) : (s.take r rest).peek x = s.peek x := by simp [State.peek]
@[simp] theorem take_get16 (r : Request) (rest : List Request) (x : Nat) : (s.take r rest).get16 x = s.get16 x := by simp [State.get16]
@[simp] theorem take_sock (r : Request) (rest : List Request) (k : SockId) : (s.take r rest).sock k = s.sock k := by simp [State.sock]
@[simp] theorem withRequest_peek (r : Request) (x : Nat) : (s.withRequest r).peek x = s.peek x := by simp [State.peek]
@[simp] theorem withRequest_get16 (r : Request) (x : Nat) : (s.withRequest r).get16 x = s.get16 x := by simp [State.get16]
@[simp] theorem withRequest_sock (r : Request) (k : SockId) : (s.withRequest r).sock k = s.sock k := by simp [State.sock]
@[simp] theorem put16_sock (a : Nat) (v : Word16) (k : SockId) : (s.put16 a v).sock k = s.sock k := by simp [State.sock]
@[simp] theorem put16_aside (a : Nat) (v : Word16) : (s.put16 a v).aside = s.aside := by simp [State.aside]
@[simp] theorem putIp_sock (a : Nat) (ip : Ip) (k : SockId) : (s.putIp a ip).sock k = s.sock k := by simp [State.sock]
@[simp] theorem putIp_aside (a : Nat) (ip : Ip) : (s.putIp a ip).aside = s.aside := by simp [State.aside]
@[simp] theorem setStatus_sock (n : SockId) (v : Byte) (k : SockId) : (s.setStatus n v).sock k = s.sock k := by simp [State.sock]
@[simp] theorem setStatus_aside (n : SockId) (v : Byte) : (s.setStatus n v).aside = s.aside := by simp [State.aside]
@[simp] theorem setHandle_peek (n : SockId) (h : Option Handle) (x : Nat) : (s.setHandle n h).peek x = s.peek x := by simp [State.peek]
@[simp] theorem setHandle_get16 (n : SockId) (h : Option Handle) (x : Nat) : (s.setHandle n h).get16 x = s.get16 x := by simp [State.get16]
@[simp] theorem setHandle_aside (n : SockId) (h : Option Handle) : (s.setHandle n h).aside = s.aside := by simp [State.aside]
@[simp] theorem setConnecting_peek (n : SockId) (b : Bool) (x : Nat) : (s.setConnecting n b).peek x = s.peek x := by simp [State.peek]
@[simp] theorem setConnecting_get16 (n : SockId) (b : Bool) (x : Nat) : (s.setConnecting n b).get16 x = s.get16 x := by simp [State.get16]
@[simp] theorem setConnecting_aside (n : SockId) (b : Bool) : (s.setConnecting n b).aside = s.aside := by simp [State.aside]
@[simp] theorem setMacraw_peek (n : SockId) (b : Bool) (x : Nat) : (s.setMacraw n b).peek x = s.peek x := by simp [State.peek]
@[simp] theorem setMacraw_get16 (n : SockId) (b : Bool) (x : Nat) : (s.setMacraw n b).get16 x = s.get16 x := by simp [State.get16]
@[simp] theorem setMacraw_aside (n : SockId) (b : Bool) : (s.setMacraw n b).aside = s.aside := by simp [State.aside]
@[simp] theorem setFill_peek (n : SockId) (h t : Nat) (x : Nat) : (s.setFill n h t).peek x = s.peek x := by simp [State.peek]
@[simp] theorem setFill_get16 (n : SockId) (h t : Nat) (x : Nat) : (s.setFill n h t).get16 x = s.get16 x := by simp [State.get16]
@[simp] theorem setFill_aside (n : SockId) (h t : Nat) : (s.setFill n h t).aside = s.aside := by simp [State.aside]
@[simp] theorem storeLease_sock (g m i : Ip) (k : SockId) : (s.storeLease g m i).sock k = s.sock k := by simp [State.sock]
@[simp] theorem storeLease_aside (g m i : Ip) : (s.storeLease g m i).aside = s.aside := by simp [State.aside]
@[simp] theorem stage_peek (n : SockId) (d : List Byte) (x : Nat) : (s.stage n d).peek x = s.peek x := by simp [State.peek]
@[simp] theorem stage_get16 (n : SockId) (d : List Byte) (x : Nat) : (s.stage n d).get16 x = s.get16 x := by simp [State.get16]
@[simp] theorem stage_aside (n : SockId) (d : List Byte) : (s.stage n d).aside = s.aside := by simp [State.aside]
@[simp] theorem nextAnswer_peek (x : Nat) : s.nextAnswer.2.peek x = s.peek x := by simp [State.peek]
@[simp] theorem nextAnswer_get16 (x : Nat) : s.nextAnswer.2.get16 x = s.get16 x := by simp [State.get16]
@[simp] theorem nextAnswer_sock (k : SockId) : s.nextAnswer.2.sock k = s.sock k := by simp [State.sock]
@[simp] theorem nextAnswer_aside : s.nextAnswer.2.aside = s.aside := by simp [State.aside]
@[simp] theorem nextVNet_peek (x : Nat) : s.nextVNet.2.peek x = s.peek x := by simp [State.peek]
@[simp] theorem nextVNet_get16 (x : Nat) : s.nextVNet.2.get16 x = s.get16 x := by simp [State.get16]
@[simp] theorem nextVNet_sock (k : SockId) : s.nextVNet.2.sock k = s.sock k := by simp [State.sock]
@[simp] theorem nextVNet_aside : s.nextVNet.2.aside = s.aside := by simp [State.aside]
@[simp] theorem ask_peek (c : EnvCall) (x : Nat) : (s.ask c).2.peek x = s.peek x := by simp [State.peek]
@[simp] theorem ask_get16 (c : EnvCall) (x : Nat) : (s.ask c).2.get16 x = s.get16 x := by simp [State.get16]
@[simp] theorem ask_sock (c : EnvCall) (k : SockId) : (s.ask c).2.sock k = s.sock k := by simp [State.sock]
@[simp] theorem ask_aside (c : EnvCall) : (s.ask c).2.aside = s.aside := by simp [State.aside]
@[simp] theorem hostClose_peek (h : Handle) (x : Nat) : (s.hostClose h).peek x = s.peek x := by simp [State.peek]
@[simp] theorem hostClose_get16 (h : Handle) (x : Nat) : (s.hostClose h).get16 x = s.get16 x := by simp [State.get16]
@[simp] theorem hostClose_sock (h : Handle) (k : SockId) : (s.hostClose h).sock k = s.sock k := by simp [State.sock]
@[simp] theorem hostClose_aside (h : Handle) : (s.hostClose h).aside = s.aside := by simp [State.aside]
@[simp] theorem release_peek (n : SockId) (x : Nat) : (s.release n).peek x = s.peek x := by simp [State.peek]
@[simp] theorem release_get16 (n : SockId) (x : Nat) : (s.release n).get16 x = s.get16 x := by simp [State.get16]
@[simp] theorem release_aside (n : SockId) : (s.release n).aside = s.aside := by simp [State.aside]
@[simp] theorem dropFlow_peek (x : Nat) : s.dropFlow.peek x = s.peek x := by simp [State.peek]
@[simp] theorem dropFlow_get16 (x : Nat) : s.dropFlow.get16 x = s.get16 x := by simp [State.get16]
@[simp] theorem dropFlow_sock (k : SockId) : s.dropFlow.sock k = s.sock k := by simp [State.sock]
@[simp] theorem dropFlow_aside : s.dropFlow.aside = s.aside := by simp [State.aside]
@[simp] theorem setEnv_peek (e : Option VEnv) (x : Nat) : (s.setEnv e).peek x = s.peek x := by simp [State.peek]
@[simp] theorem setEnv_get16 (e : Option VEnv) (x : Nat) : (s.setEnv e).get16 x = s.get16 x := by simp [State.get16]
@[simp] theorem setEnv_sock (e : Option VEnv) (k : SockId) : (s.setEnv e).sock k = s.sock k := by simp [State.sock]
@[simp] theorem setEnv_aside (e : Option VEnv) : (s.setEnv e).aside = s.aside := by simp [State.aside]
@[simp] theorem postIncrement_peek (x : Nat) : s.postIncrement.peek x = s.peek x := by simp [State.peek]
@[simp] theorem postIncrement_get16 (x : Nat) : s.postIncrement.get16 x = s.get16 x := by simp [State.get16]
@[simp] theorem postIncrement_sock (k : SockId) : s.postIncrement.sock k = s.sock k := by simp [State.sock]
@[simp] theorem rxInject_peek (n : SockId) (f : Frame) (x : Nat) : (s.rxInject n f).peek x = s.peek x := by simp [State.peek]
@[simp] theorem rxInject_get16 (n : SockId) (f : Frame) (x : Nat) : (s.rxInject n f).get16 x = s.get16 x := by simp [State.get16]
@[simp] theorem rxInject_aside (n : SockId) (f : Frame) : (s.rxInject n f).aside = s.aside := by simp [State.aside]
@[simp] theorem rxInjectAll_peek (n : SockId) (l : List Frame) (x : Nat) : (s.rxInjectAll n l).peek x = s.peek x := by simp [State.peek]
@[simp] theorem rxInjectAll_get16 (n : SockId) (l : List Frame) (x : Nat) : (s.rxInjectAll n l).get16 x = s.get16 x := by simp [State.get16]
@[simp] theorem rxInjectAll_aside (n : SockId) (l : List Frame) : (s.rxInjectAll n l).aside = s.aside := by simp [State.aside]

@[simp] theorem hostClose_status (h : Handle) (n : SockId) : (s.hostClose h).status n = s.status n := by
  simp [State.status]

@[simp] theorem release_status (n m : SockId) : (s.release n).status m = s.status m := by
  simp [State.status]

/-- Socket `m` after a release of `n`: `n` has lost its handle and its connecting flag (41 R216). -/
theorem sock_release (n m : SockId) :
    (s.release n).sock m =
      if m = n then { s.sock n with handle := none, connecting := false } else s.sock m := by
  unfold State.release
  simp only []
  rw [sock_setSock]
  by_cases h : m = n
  · subst h; cases hh : (s.sock m).handle <;> simp
  · rw [if_neg h, if_neg h]; cases hh : (s.sock n).handle <;> simp

@[simp] theorem release_handle (n : SockId) : ((s.release n).sock n).handle = none := by
  simp [sock_release]

/-- A release closes the socket's handle on the host, unless it is a reserved standard stream (41 R216).
-/
theorem envLog_release (n : SockId) :
    (s.release n).envLog =
      (((s.sock n).handle.toList.filter (3 ≤ ·)).map EnvCall.close) ++ s.envLog := by
  unfold State.release
  cases h : (s.sock n).handle with
  | none => simp
  | some h' => by_cases h3 : 3 ≤ h' <;> simp [State.hostClose, h3]

/-! ## Injection and staging (42 R243, R265) -/

/-- What an injection does to the sockets. -/
theorem sock_rxInject (n m : SockId) (f : Frame) :
    (s.rxInject n f).sock m =
      if m = n ∧ (s.sock n).rxTail + f.length + 2 ≤ 4096 then
        { s.sock n with
          staging := stageLinear (s.sock n).staging (s.sock n).rxTail (framed f)
          rxTail := (s.sock n).rxTail + f.length + 2 }
      else s.sock m := by
  unfold State.rxInject
  simp only []
  split
  · next h => rw [if_neg (by omega)]
  · next h =>
    rw [sock_setSock]
    by_cases hm : m = n
    · simp [hm, show (s.sock n).rxTail + f.length + 2 ≤ 4096 by omega]
    · simp [hm]

/-- What staging received bytes does to the sockets. -/
theorem sock_stage (n m : SockId) (d : List Byte) :
    (s.stage n d).sock m =
      if m = n then
        { s.sock n with
          staging := stageRing (s.sock n).staging (s.sock n).rxTail d
          rxTail := ((s.sock n).rxTail + d.length) % 2048 }
      else s.sock m := sock_setSock s n m _

theorem length_framed (f : Frame) : (framed f).length = f.length + 2 := by
  simp [framed, be16]

/-- What an index reads as after bytes are stored from `t` on with no wrap. -/
theorem read_stageLinear (m : Memory) (t : Nat) (l : List Byte) (i : Nat) :
    (stageLinear m t l).read stagingDefault i =
      if t ≤ i ∧ i < t + l.length then l.getD (i - t) 0 else m.read stagingDefault i := by
  induction l generalizing m t with
  | nil => simp [stageLinear]
  | cons b bs ih =>
    rw [stageLinear, ih, Memory.read_write]
    by_cases h1 : i = t
    · subst h1; simp
    · by_cases h2 : t + 1 ≤ i ∧ i < t + 1 + bs.length
      · rw [if_pos h2, if_pos (by simp; omega)]
        obtain ⟨k, rfl⟩ : ∃ k, i = t + 1 + k := ⟨i - (t + 1), by omega⟩
        rw [show t + 1 + k - t = k + 1 by omega]; simp
      · rw [if_neg h2, if_neg h1, if_neg (by simp; omega)]

theorem wf_stageLinear (m : Memory) (t : Nat) (l : List Byte)
    (hm : m.wf stagingDefault Config.stagingCap = true) (ht : t + l.length ≤ 4096) :
    (stageLinear m t l).wf stagingDefault Config.stagingCap = true := by
  induction l generalizing m t with
  | nil => exact hm
  | cons b bs ih =>
    simp only [List.length_cons] at ht
    exact ih _ _ (Memory.wf_write _ _ m t b hm (by show t < 4096; omega)) (by omega)

theorem wf_stageRing (m : Memory) (t : Nat) (l : List Byte)
    (hm : m.wf stagingDefault Config.stagingCap = true) :
    (stageRing m t l).wf stagingDefault Config.stagingCap = true := by
  induction l generalizing m t with
  | nil => exact hm
  | cons b bs ih =>
    exact ih _ _ (Memory.wf_write _ _ m _ b hm (Nat.lt_trans (Nat.mod_lt t (by omega)) (by decide)))

/-- What an index reads as after at most 2048 bytes are stored from `t` on modulo 2048. -/
theorem read_stageRing (m : Memory) (t : Nat) (l : List Byte) (i : Nat) (hl : l.length ≤ 2048) :
    (stageRing m t l).read stagingDefault i =
      if i < 2048 ∧ (i + (2048 - t % 2048)) % 2048 < l.length then
        l.getD ((i + (2048 - t % 2048)) % 2048) 0
      else m.read stagingDefault i := by
  induction l generalizing m t with
  | nil => simp [stageRing]
  | cons b bs ih =>
    simp only [List.length_cons] at hl
    rw [stageRing, ih _ _ (by omega), Memory.read_write]
    by_cases hi : i < 2048
    · by_cases h1 : i = t % 2048
      · have h0 : (i + (2048 - t % 2048)) % 2048 = 0 := by omega
        have h2 : (i + (2048 - (t + 1) % 2048)) % 2048 = 2047 := by omega
        rw [h0, h2, if_neg (by omega), if_pos h1, if_pos (by simp [hi])]
        simp
      · have h3 : (i + (2048 - t % 2048)) % 2048 = (i + (2048 - (t + 1) % 2048)) % 2048 + 1 := by omega
        rw [h3, if_neg h1]
        simp [hi]
    · have h1 : i ≠ t % 2048 := by omega
      rw [if_neg (by omega), if_neg h1, if_neg (by omega)]

/-! ## The virtual network layer's stores -/

/-- The lease is written where it is said to be, and nowhere else (44 R325). -/
theorem peek_storeLease (g m i : Ip) (a : Nat) (h : ¬ leaseByte a) :
    (s.storeLease g m i).peek a = s.peek a := by
  unfold leaseByte at h
  unfold State.storeLease
  rw [peek_putIp_other _ _ _ _ (by omega), peek_putIp_other _ _ _ _ (by omega),
    peek_putIp_other _ _ _ _ (by omega)]

theorem getIp_storeLease (g m i : Ip) :
    (s.storeLease g m i).getIp 0x0001 = g ∧ (s.storeLease g m i).getIp 0x0005 = m
      ∧ (s.storeLease g m i).getIp 0x000F = i := by
  simp [State.storeLease, State.getIp, peek_putIp, ipOf_octets]

/-- Where the fill level of a socket has no value (70 R414, 93 U14). -/
theorem rsr_eq_none_iff (k : Sock) : k.rsr = none ↔ k.tailBelowHead := by
  unfold Sock.rsr Sock.tailBelowHead
  cases k.macraw <;> simp

end Sys2Proof.Machine
end

