-- ==== Sys2Proof/Laws/Calls.lean ====
section
/-! SUPPORT. The slot calls: everything each of them can do (43 R290, 00 R8). -/

namespace Sys2Proof.Machine

variable (s : State) (card : Card) (slot : Int)

/-- Everything a slot call can do: it is refused for one of three reasons, in this order, or it sets the
card's slot and tells the dispatcher (93 U12, D38; log 22). -/
theorem setSlot_cases :
    ((slot < 1 ∨ 7 < slot) ∧ s.setSlot card slot = .error .slotOutOfRange)
      ∨ (1 ≤ slot ∧ slot ≤ 7 ∧ s.started = true ∧ s.setSlot card slot = .error .slotAfterStart)
      ∨ (1 ≤ slot ∧ slot ≤ 7 ∧ s.started = false ∧ otherSlot s.params card = some slot.toNat
          ∧ s.setSlot card slot = .error .slotTaken)
      ∨ (1 ≤ slot ∧ slot ≤ 7 ∧ s.started = false ∧ otherSlot s.params card ≠ some slot.toNat
          ∧ s.setSlot card slot = .ok ((s.storeSlot card slot.toNat).logCall (.slot card slot))) := by
  unfold State.setSlot
  by_cases h : slot < 1 ∨ 7 < slot
  · exact .inl ⟨h, if_pos h⟩
  · rw [if_neg h]
    have h1 : 1 ≤ slot ∧ slot ≤ 7 := by omega
    by_cases hs : s.started = true
    · exact .inr (.inl ⟨h1.1, h1.2, hs, if_pos hs⟩)
    · rw [if_neg hs]
      have hs' : s.started = false := by simpa using hs
      by_cases ho : otherSlot s.params card = some slot.toNat
      · exact .inr (.inr (.inl ⟨h1.1, h1.2, hs', ho, if_pos ho⟩))
      · exact .inr (.inr (.inr ⟨h1.1, h1.2, hs', ho, if_neg ho⟩))

/-- A slot call that is not refused keeps the slots legal: in 1..7 and distinct. -/
theorem setSlot_slotsLegal (t : State) (h : s.SlotsLegal) (e : s.setSlot card slot = .ok t) : t.SlotsLegal := by
  rcases setSlot_cases s card slot with ⟨-, e'⟩ | ⟨-, -, -, e'⟩ | ⟨-, -, -, -, e'⟩ | ⟨h1, h7, -, ho, e'⟩
  · rw [e'] at e; cases e
  · rw [e'] at e; cases e
  · rw [e'] at e; cases e
  · rw [e'] at e
    cases e
    have hk : 1 ≤ slot.toNat ∧ slot.toNat ≤ 7 := by omega
    obtain ⟨hu, hm, hd⟩ := h
    cases card with
    | uthernet2 =>
      refine ⟨fun k e => ?_, hm, fun k e => ?_⟩
      · cases e; exact hk
      · cases e; exact ho
    | mouse =>
      refine ⟨hu, fun k e => ?_, fun k e e' => ho ?_⟩
      · cases e; exact hk
      · cases e'; exact e

/-- A slot call that is not refused keeps the invariants. -/
theorem setSlot_sound (t : State) (h : s.Sound) (e : s.setSlot card slot = .ok t) : t.Sound := by
  have hl := setSlot_slotsLegal s card slot t h.2.2.2.2.2 e
  rcases setSlot_cases s card slot with ⟨-, e'⟩ | ⟨-, -, -, e'⟩ | ⟨-, -, -, -, e'⟩ | ⟨-, -, -, -, e'⟩
  all_goals rw [e'] at e; cases e
  exact ⟨h.1, h.2.1, h.2.2.1, h.2.2.2.1, h.2.2.2.2.1, hl⟩

end Sys2Proof.Machine
end

