-- ==== Sys2Proof/Laws/Vnet.lean ====
section
/-! SUPPORT. The virtual network layer: everything that one call of it can do to the state (42 R264, R266), and that every frame it returns is a frame. -/

namespace Sys2Proof

/-! ## Fresh handles (42 R260) -/

theorem le_foldr_max (l : List Handle) (b : Nat) : b ≤ l.foldr max b := by
  induction l with
  | nil => simp
  | cons x t ih => exact ih.trans (le_max_right _ _)

theorem mem_le_foldr_max (l : List Handle) (b : Nat) {x : Handle} (h : x ∈ l) : x ≤ l.foldr max b := by
  induction l with
  | nil => simp at h
  | cons y t ih =>
    simp only [List.mem_cons] at h
    rcases h with rfl | h
    · exact le_max_left _ _
    · exact (ih h).trans (le_max_right _ _)

/-- A fresh handle is no reserved standard stream. -/
theorem three_le_freshHandle (live : List Handle) (h : Handle) : 3 ≤ freshHandle live h := by
  unfold freshHandle
  split
  · next hh => exact hh.1
  · exact Nat.succ_le_succ (le_foldr_max live 2)

/-- A fresh handle differs from every live handle. -/
theorem freshHandle_notMem (live : List Handle) (h : Handle) : freshHandle live h ∉ live := by
  unfold freshHandle
  split
  · next hh => exact hh.2
  · intro hm
    exact absurd (mem_le_foldr_max live 2 hm) (Nat.not_succ_le_self _)

/-- What an operation that yields a handle answers is fresh. -/
theorem HostAnswer.asHandle_fresh {a : HostAnswer} {live : List Handle} {h : Handle}
    (e : a.asHandle live = some h) : 3 ≤ h ∧ h ∉ live := by
  unfold HostAnswer.asHandle at e
  split at e
  · cases e; exact ⟨three_le_freshHandle _ _, freshHandle_notMem _ _⟩
  · cases e

end Sys2Proof

namespace Sys2Proof.Machine

/-! ## Owners of handles -/

/-- The handles stay owned when the sockets keep theirs and the flow keeps its own or has none. -/
theorem handlesOwned_of_sub {s t : State} (hs : s.HandlesOwned) (hk : t.socks.handles = s.socks.handles)
    (hv : t.venv.handle = s.venv.handle ∨ t.venv.handle = none) : t.HandlesOwned := by
  unfold State.HandlesOwned State.liveHandles at hs ⊢
  rw [hk]
  rcases hv with hv | hv
  · rw [hv]; exact hs
  · rw [hv]
    have hn := (List.nodup_append.mp hs.1).2.1
    exact ⟨by simpa using hn, fun h hh => hs.2 h (by simp at hh; simp [hh])⟩

/-- The handles stay owned when the flow gets one that no socket has. -/
theorem handlesOwned_of_fresh {s t : State} (hs : s.HandlesOwned) (hk : t.socks.handles = s.socks.handles)
    {h : Handle} (hv : t.venv.handle = some h) (h3 : 3 ≤ h) (hf : h ∉ s.socks.handles) :
    t.HandlesOwned := by
  unfold State.HandlesOwned State.liveHandles at hs ⊢
  rw [hk, hv]
  have hn := (List.nodup_append.mp hs.1).2.1
  refine ⟨?_, ?_⟩
  · simpa using ⟨hf, hn⟩
  · intro x hx
    simp only [Option.toList_some, List.cons_append, List.nil_append, List.mem_cons] at hx
    rcases hx with rfl | hx
    · exact h3
    · exact hs.2 x (by simp [hx])

/-! ## What one call may do -/

/-- Everything a call of the virtual network layer can do: the environment state, the draws, the call
log, and the twelve bytes of the lease (42 R264, R266). -/
structure VnetKeeps (s t : State) : Prop where
  aside : t.aside = s.aside
  socks : t.socks = s.socks
  image : ∀ a, ¬ leaseByte a → t.peek a = s.peek a
  wf : s.mem.wf imageDefault Config.memSize = true → t.mem.wf imageDefault Config.memSize = true
  owned : s.HandlesOwned → t.HandlesOwned

theorem VnetKeeps.refl (s : State) : VnetKeeps s s := ⟨rfl, rfl, fun _ _ => rfl, id, id⟩

theorem VnetKeeps.trans {s t u : State} (h : VnetKeeps s t) (k : VnetKeeps t u) : VnetKeeps s u :=
  ⟨k.aside.trans h.aside, k.socks.trans h.socks,
    fun a ha => (k.image a ha).trans (h.image a ha), fun w => k.wf (h.wf w), fun o => k.owned (h.owned o)⟩

/-- A state that differs in nothing but the draws, the log, and a flow dropped or kept. -/
theorem VnetKeeps.of_eq {s t : State} (ha : t.aside = s.aside) (hk : t.socks = s.socks)
    (hm : t.mem = s.mem) (hv : t.venv.handle = s.venv.handle ∨ t.venv.handle = none) : VnetKeeps s t :=
  ⟨ha, hk, fun a _ => by simp [State.peek, hm], fun w => hm ▸ w,
    fun o => handlesOwned_of_sub o (by rw [hk]) hv⟩

theorem wf_putIp {s : State} (a : Nat) (ip : Ip) (ha : a + 4 ≤ 0x8000)
    (w : s.mem.wf imageDefault Config.memSize = true) :
    (s.putIp a ip).mem.wf imageDefault Config.memSize = true :=
  Memory.wf_write _ _ _ _ _ (Memory.wf_write _ _ _ _ _ (Memory.wf_write _ _ _ _ _
    (Memory.wf_write _ _ _ _ _ w (by show a < 0x8000; omega)) (by show a + 1 < 0x8000; omega))
    (by show a + 2 < 0x8000; omega)) (by show a + 3 < 0x8000; omega)

theorem vnetKeeps_storeLease (s : State) (g m i : Ip) : VnetKeeps s (s.storeLease g m i) :=
  ⟨by simp, by simp, fun a ha => peek_storeLease s g m i a ha,
    fun w => wf_putIp _ _ (by decide) (wf_putIp _ _ (by decide) (wf_putIp _ _ (by decide) w)),
    fun o => handlesOwned_of_sub o (by simp) (by simp)⟩

/-! ## The responders -/

@[simp] theorem etherHeader_ne_nil (d m : Mac) (e : Word16) : ethHeader d m e ≠ [] := by
  simp [ethHeader, macBytes]

theorem dhcpReply_ne_nil (c : VNetChoices) (v : VEnv) (t : Byte) (d : Ip) : dhcpReply c v t d ≠ [] := by
  simp [dhcpReply]

theorem tcpSegment_ne_nil (o : ReplyOpen) (v : VTcp) (fl : Byte) (p : List Byte) :
    tcpSegment o v fl p ≠ [] := by
  simp [tcpSegment]

/-- Everything a DISCOVER can do. -/
theorem dhcpDiscover_spec (c : VNetChoices) (x : BitVec 32) (m : Mac) (s : State) :
    VnetKeeps s (dhcpDiscover c x m s).2 ∧ ∀ r ∈ (dhcpDiscover c x m s).1, r ≠ [] := by
  unfold dhcpDiscover
  split
  all_goals
    constructor
    · first | exact .refl s | exact .of_eq rfl rfl rfl (.inl rfl)
    · simp [dhcpReply_ne_nil]

/-- Everything a REQUEST can do. -/
theorem dhcpRequest_spec (c : VNetChoices) (x : BitVec 32) (m : Mac) (s : State) :
    VnetKeeps s (dhcpRequest c x m s).2 ∧ ∀ r ∈ (dhcpRequest c x m s).1, r ≠ [] := by
  have k : VnetKeeps s { s with venv := { s.venv with dhcpState := .complete } } :=
    .of_eq rfl rfl rfl (.inl rfl)
  unfold dhcpRequest
  split
  case h_3 | h_4 | h_5 => exact ⟨.refl s, by simp⟩
  all_goals
    split
    · refine ⟨k.trans (vnetKeeps_storeLease _ _ _ _), ?_⟩
      intro r hr
      rw [List.mem_singleton.mp hr]
      exact dhcpReply_ne_nil _ _ _ _
    · exact ⟨.refl s, by simp⟩

/-- Everything the DHCP responder can do. -/
theorem dhcpRespond_spec (c : VNetChoices) (f : Frame) (s : State) :
    VnetKeeps s (dhcpRespond c f s).2 ∧ ∀ r ∈ (dhcpRespond c f s).1, r ≠ [] := by
  unfold dhcpRespond
  split
  · exact ⟨.refl s, by simp⟩
  · split_ifs
    · exact dhcpDiscover_spec c _ _ s
    · exact dhcpRequest_spec c _ _ s
    · exact ⟨.refl s, by simp⟩

/-- Work of the TCP responder that began at `s` with the flow's handle `h` keeps this. -/
structure RespKeeps (s : State) (h : Option Handle) (r : Resp) : Prop where
  aside : r.s.aside = s.aside
  socks : r.s.socks = s.socks
  mem : r.s.mem = s.mem
  venv : r.s.venv = s.venv
  handle : r.flow.handle = h ∨ r.flow.handle = none
  frames : ∀ f ∈ r.out, f ≠ []

variable {s : State} {h : Option Handle} {r : Resp} (c : VNetChoices)

theorem RespKeeps.emit (k : RespKeeps s h r) (fl : Byte) (p : List Byte) (adv : Nat) :
    RespKeeps s h (r.emit c fl p adv) :=
  ⟨k.aside, k.socks, k.mem, k.venv, k.handle, fun f hf => by
    simp only [Resp.emit, List.mem_append, List.mem_singleton] at hf
    rcases hf with hf | rfl
    · exact k.frames f hf
    · exact tcpSegment_ne_nil _ _ _ _⟩

theorem RespKeeps.withFlow (k : RespKeeps s h r) (v : VTcp) (hv : v.handle = r.flow.handle) :
    RespKeeps s h (r.withFlow v) :=
  ⟨k.aside, k.socks, k.mem, k.venv, by rw [show (r.withFlow v).flow.handle = _ from hv]; exact k.handle,
    k.frames⟩

theorem RespKeeps.closeHandle (k : RespKeeps s h r) : RespKeeps s h r.closeHandle := by
  unfold Resp.closeHandle
  split
  · exact ⟨by simpa using k.aside, by simpa using k.socks, by simpa using k.mem, by simpa using k.venv,
      .inr rfl, k.frames⟩
  · exact k

theorem RespKeeps.finAck (k : RespKeeps s h r) : RespKeeps s h (r.finAck c) := by
  unfold Resp.finAck
  dsimp only
  exact RespKeeps.closeHandle (RespKeeps.withFlow (k.emit c 0x11 [] 1) _ (by rfl))

theorem RespKeeps.push (l : List (List Byte)) (k : RespKeeps s h r) : RespKeeps s h (r.push c l) := by
  induction l generalizing r with
  | nil => exact k
  | cons p ps ih => exact ih (k.emit c 0x18 p p.length)

theorem RespKeeps.withState (k : RespKeeps s h r) {t : State} (ha : t.aside = r.s.aside)
    (hk : t.socks = r.s.socks) (hm : t.mem = r.s.mem) (hv : t.venv = r.s.venv) :
    RespKeeps s h { r with s := t } :=
  ⟨ha.trans k.aside, hk.trans k.socks, hm.trans k.mem, hv.trans k.venv, k.handle, k.frames⟩

theorem RespKeeps.forward (k : RespKeeps s h r) (p : List Byte) : RespKeeps s h (r.forward p) := by
  unfold Resp.forward
  split
  · exact k.withState (by simp) (by simp) (by simp) (by simp)
  · exact k

theorem RespKeeps.wait (k : RespKeeps s h r) : RespKeeps s h (r.wait c) := by
  unfold Resp.wait
  split
  · exact k
  · next h' _ =>
    have k1 := (k.withState (t := (r.s.ask (.vtcpWait h')).2) (by simp) (by simp) (by simp) (by simp)).push c
      ((r.s.ask (.vtcpWait h')).1.asArrived.1.flatMap chunks)
    dsimp only
    split
    · exact k1.finAck c
    · exact k1

theorem RespKeeps.data (k : RespKeeps s h r) (p : List Byte) : RespKeeps s h (r.data c p) := by
  unfold Resp.data Resp.advance
  exact (((k.forward p).withFlow _ (by rfl)).emit c 0x10 [] 0).wait c

theorem RespKeeps.fin (k : RespKeeps s h r) : RespKeeps s h (r.fin c) := by
  have k2 := (k.withFlow { r.flow with theirSeq := r.flow.theirSeq + 1, finReceived := true } rfl).emit c 0x10 [] 0
  unfold Resp.fin
  dsimp only
  split
  · exact RespKeeps.closeHandle (RespKeeps.withFlow k2 _ (by rfl))
  · exact RespKeeps.closeHandle (RespKeeps.withFlow (k2.emit c 0x11 [] 1) _ (by rfl))

/-- What is stored when the work is done. -/
theorem RespKeeps.done (k : RespKeeps s h r) (o : s.HandlesOwned → ∀ h', h = some h' →
      s.venv.handle = some h' ∨ 3 ≤ h' ∧ h' ∉ s.socks.handles) :
    VnetKeeps s r.done.2 ∧ ∀ f ∈ r.done.1, f ≠ [] := by
  refine ⟨⟨k.aside, k.socks, fun a _ => ?_, fun w => ?_, fun own => ?_⟩, k.frames⟩
  · simp [Resp.done, State.peek, k.mem]
  · simpa [Resp.done, k.mem] using w
  · have hk : r.done.2.socks.handles = s.socks.handles := by simp [Resp.done, k.socks]
    have hv : r.done.2.venv.handle = r.flow.handle := rfl
    rcases k.handle with e | e
    · cases hh : h with
      | none => exact handlesOwned_of_sub own hk (.inr (by rw [hv, e, hh]))
      | some h' =>
        rcases o own h' hh with e' | ⟨h3, hf⟩
        · exact handlesOwned_of_sub own hk (.inl (by rw [hv, e, hh, e']))
        · exact handlesOwned_of_fresh own hk (by rw [hv, e, hh]) h3 hf
    · exact handlesOwned_of_sub own hk (.inr (by rw [hv, e]))

theorem vnetKeeps_dropFlow (s : State) : VnetKeeps s s.dropFlow :=
  .of_eq (by simp) (by simp) (by simp) (.inr (by simp [VEnv.handle]))

/-- Everything a SYN can do. -/
theorem tcpSyn_spec (c : VNetChoices) (g : Segment) (s : State) :
    VnetKeeps s (tcpSyn c g s).2 ∧ ∀ f ∈ (tcpSyn c g s).1, f ≠ [] := by
  have k0 := vnetKeeps_dropFlow s
  have k1 : VnetKeeps s.dropFlow (s.dropFlow.ask (.vtcpConnect g.dstPort)).2 :=
    .of_eq (by simp) (by simp) (by simp) (.inl (by simp))
  unfold tcpSyn
  dsimp only
  split
  · exact ⟨k0.trans k1, by simp [tcpSegment_ne_nil]⟩
  · next h' e =>
    have hf := HostAnswer.asHandle_fresh e
    have kr : RespKeeps (s.dropFlow.ask (.vtcpConnect g.dstPort)).2 (some h')
        { out := [], flow := flowOf g (some h') vnIss (g.seq + 1),
          s := (s.dropFlow.ask (.vtcpConnect g.dstPort)).2 } :=
      ⟨rfl, rfl, rfl, rfl, .inl rfl, by simp⟩
    have kd := (kr.emit c 0x12 [] 1).done (fun _ x hx => .inr (by
      cases hx
      refine ⟨hf.1, fun hm => hf.2 ?_⟩
      simp only [ask_socks] at hm
      unfold State.liveHandles
      exact List.mem_append_right _ hm))
    exact ⟨(k0.trans k1).trans kd.1, kd.2⟩

/-- Everything a segment of the live flow can do. -/
theorem tcpOnFlow_spec (c : VNetChoices) (g : Segment) (v : VTcp) (s : State) (hv : s.venv.vtcp = some v) :
    VnetKeeps s (tcpOnFlow c g v s).2 ∧ ∀ f ∈ (tcpOnFlow c g v s).1, f ≠ [] := by
  have hh : ∀ h', v.handle = some h' → s.venv.handle = some h' ∨ 3 ≤ h' ∧ h' ∉ s.socks.handles :=
    fun h' e => .inl (by simp [VEnv.handle, hv, e])
  have kr : RespKeeps s v.handle { out := [], flow := ackFlow v g, s := s } :=
    ⟨rfl, rfl, rfl, rfl, .inl (by unfold ackFlow; split <;> rfl), by simp⟩
  unfold tcpOnFlow
  dsimp only
  split
  · exact kr.done fun _ => hh
  · have k1 : RespKeeps s v.handle
        (if g.payload ≠ [] ∧ (g.has 0x01 = false ∨ c.finData) then
          ({ out := [], flow := ackFlow v g, s := s } : Resp).data c g.payload
        else { out := [], flow := ackFlow v g, s := s }) := by
      split
      · exact kr.data c _
      · exact kr
    split
    · exact (k1.fin c).done fun _ => hh
    · exact k1.done fun _ => hh

/-- Everything the TCP responder can do. -/
theorem tcpRespond_spec (c : VNetChoices) (f : Frame) (s : State) :
    VnetKeeps s (tcpRespond c f s).2 ∧ ∀ r ∈ (tcpRespond c f s).1, r ≠ [] := by
  unfold tcpRespond
  split
  · exact ⟨.refl s, by simp⟩
  · split
    · exact ⟨.refl s, by simp⟩
    · split
      · split
        · exact ⟨.refl s, by simp⟩
        · exact tcpSyn_spec c _ s
      · split
        · exact ⟨.refl s, by simp⟩
        · next hv =>
          split
          · exact tcpOnFlow_spec c _ _ s hv
          · exact ⟨.refl s, by simp⟩

/-- Everything the responders can do with one outgoing frame. -/
theorem respond_spec (c : VNetChoices) (f : Frame) (s : State) :
    VnetKeeps s (respond c f s).2 ∧ ∀ r ∈ (respond c f s).1, r ≠ [] := by
  unfold respond
  split
  · exact ⟨.refl s, by simp⟩
  · split
    · refine ⟨.refl s, ?_⟩
      unfold arpRespond
      split_ifs <;> simp [arpReply]
    · split
      · exact dhcpRespond_spec c f s
      · split
        · exact tcpRespond_spec c f s
        · exact ⟨.refl s, by simp⟩

/-! ## The two entry points -/

theorem vnetKeeps_logCall (s : State) (e : EnvCall) : VnetKeeps s (s.logCall e) :=
  .of_eq (by simp) (by simp) (by simp) (.inl (by simp))

theorem vnetKeeps_nextVNet (s : State) : VnetKeeps s s.nextVNet.2 :=
  .of_eq (by simp) (by simp) (by simp) (.inl (by simp))

theorem vnetKeeps_setEnv (s : State) (e : Option VEnv) : VnetKeeps s (s.setEnv e) := by
  refine ⟨by simp, by simp, fun a _ => by simp, fun w => by simpa using w, fun own => ?_⟩
  cases e with
  | none => exact own
  | some v =>
    have hk : (s.setEnv (some v)).socks.handles = s.socks.handles := by simp
    have hv : (s.setEnv (some v)).venv = legalEnv s.socks v := rfl
    cases hh : (s.setEnv (some v)).venv.handle with
    | none => exact handlesOwned_of_sub own hk (.inr hh)
    | some h' =>
      have : 3 ≤ h' ∧ h' ∉ s.socks.handles := by
        rw [hv] at hh
        unfold legalEnv at hh
        split at hh
        · next e => simp [VEnv.handle, e] at hh
        · next w e =>
          split at hh
          · next e' => simp [VEnv.handle, e, e'] at hh
          · next x e' =>
            split at hh
            · next hl =>
              simp only [VEnv.handle, e, e'] at hh
              cases hh
              exact hl
            · simp [VEnv.handle] at hh
      exact handlesOwned_of_fresh own hk hh this.1 this.2

/-- Everything `VNet.frame` can do (42 R264). -/
theorem vnetFrame_spec (s : State) (f : Frame) :
    VnetKeeps s (s.vnetFrame f).2 ∧ ∀ r ∈ (s.vnetFrame f).1, r ≠ [] := by
  have k := (vnetKeeps_logCall s (.vnetFrame f)).trans (vnetKeeps_nextVNet _)
  unfold State.vnetFrame
  dsimp only
  split
  · next c _ => exact ⟨k.trans (respond_spec c f _).1, (respond_spec c f _).2⟩
  · next frames env regs _ =>
    refine ⟨?_, by simp +contextual⟩
    split
    · exact k.trans (vnetKeeps_setEnv _ _)
    · exact (k.trans (vnetKeeps_setEnv _ _)).trans (vnetKeeps_storeLease _ _ _ _)

/-- Everything the poll of the virtual TCP flow can do; it does not write the image. -/
theorem tcpPoll_spec (c : VNetChoices) (s : State) :
    VnetKeeps s (tcpPoll c s).2 ∧ (tcpPoll c s).2.mem = s.mem ∧ ∀ r ∈ (tcpPoll c s).1, r ≠ [] := by
  unfold tcpPoll
  split
  · exact ⟨.refl s, rfl, by simp⟩
  · next v hv =>
    split
    · exact ⟨.refl s, rfl, by simp⟩
    · next h' hh =>
      split
      · exact ⟨.refl s, rfl, by simp⟩
      · have ka : VnetKeeps s (s.ask (.vtcpRead h')).2 :=
          .of_eq (by simp) (by simp) (by simp) (.inl (by simp))
        have kr : RespKeeps (s.ask (.vtcpRead h')).2 v.handle
            { out := [], flow := v, s := (s.ask (.vtcpRead h')).2 } :=
          ⟨rfl, rfl, rfl, rfl, .inl rfl, by simp⟩
        have ho : (s.ask (.vtcpRead h')).2.HandlesOwned → ∀ x, v.handle = some x →
            (s.ask (.vtcpRead h')).2.venv.handle = some x
              ∨ 3 ≤ x ∧ x ∉ (s.ask (.vtcpRead h')).2.socks.handles :=
          fun _ x e => .inl (by simp [VEnv.handle, hv, e])
        dsimp only
        split
        · have kd := (kr.finAck c).done ho
          exact ⟨ka.trans kd.1, (kr.finAck c).mem.trans (by simp), kd.2⟩
        · next b t _ =>
          have kd := (kr.push c (chunks (b :: t))).done ho
          exact ⟨ka.trans kd.1, (kr.push c (chunks (b :: t))).mem.trans (by simp), kd.2⟩
        · exact ⟨ka, by simp, by simp⟩

/-- Everything `VNet.poll` can do: it does not write the image (42 R264). -/
theorem vnetPoll_spec (s : State) :
    VnetKeeps s s.vnetPoll.2 ∧ s.vnetPoll.2.mem = s.mem ∧ ∀ r ∈ s.vnetPoll.1, r ≠ [] := by
  have k := (vnetKeeps_logCall s .vnetPoll).trans (vnetKeeps_nextVNet _)
  unfold State.vnetPoll
  dsimp only
  split
  · next c _ =>
    exact ⟨k.trans (tcpPoll_spec c _).1, (tcpPoll_spec c _).2.1.trans (by simp), (tcpPoll_spec c _).2.2⟩
  · exact ⟨k.trans (vnetKeeps_setEnv _ _), by simp, by simp +contextual⟩

end Sys2Proof.Machine
end

