-- ==== Sys2Proof/Laws/Sockets.lean ====
section
/-! SUPPORT. What an operation on one socket can do: the relation that every command and every poll stays inside, closed under composition, with a lemma for each shared operation. -/

namespace Sys2Proof.Machine

/-! ## Owners of handles -/

/-- One owner per handle, said socket by socket. -/
theorem nodup_liveHandles_iff (s : State) :
    s.liveHandles.Nodup ↔
      (∀ n h, (s.sock n).handle = some h → s.venv.handle ≠ some h)
        ∧ ∀ m n h, (s.sock m).handle = some h → (s.sock n).handle = some h → m = n := by
  have e0 : s.sock 0 = s.socks.s0 := rfl
  have e1 : s.sock 1 = s.socks.s1 := rfl
  have e2 : s.sock 2 = s.socks.s2 := rfl
  have e3 : s.sock 3 = s.socks.s3 := rfl
  simp only [Fin.forall_fin_succ, State.liveHandles, Sockets.handles]
  simp [e0, e1, e2, e3]
  generalize s.venv.handle = v
  generalize s.socks.s0.handle = a
  generalize s.socks.s1.handle = b
  generalize s.socks.s2.handle = c
  generalize s.socks.s3.handle = d
  cases v <;> cases a <;> cases b <;> cases c <;> cases d <;> simp <;> grind

theorem mem_liveHandles_iff (s : State) (h : Handle) :
    h ∈ s.liveHandles ↔ s.venv.handle = some h ∨ ∃ n, (s.sock n).handle = some h := by
  simp only [State.liveHandles, List.mem_append, mem_handles_iff, Option.mem_toList, State.sock]

/-- The handles stay owned when one socket's handle is dropped, kept, or replaced by one that no other
owner has. -/
theorem handlesOwned_of_sock {s t : State} (n : SockId) (own : s.HandlesOwned)
    (hv : t.venv.handle = s.venv.handle) (ho : ∀ m, m ≠ n → (t.sock m).handle = (s.sock m).handle)
    (hn : ∀ h, (t.sock n).handle = some h → (s.sock n).handle = some h ∨
      (3 ≤ h ∧ s.venv.handle ≠ some h ∧ ∀ m, m ≠ n → (s.sock m).handle ≠ some h)) :
    t.HandlesOwned := by
  obtain ⟨nd, ge⟩ := own
  rw [nodup_liveHandles_iff] at nd
  simp only [mem_liveHandles_iff] at ge
  refine ⟨(nodup_liveHandles_iff t).mpr ⟨fun m h hm => ?_, fun m k h hm hk => ?_⟩, fun h hh => ?_⟩
  · rw [hv]
    by_cases e : m = n
    · subst e
      rcases hn h hm with e | e
      · exact nd.1 m h e
      · exact e.2.1
    · rw [ho m e] at hm; exact nd.1 m h hm
  · by_cases em : m = n <;> by_cases ek : k = n
    · rw [em, ek]
    · subst em
      rw [ho k ek] at hk
      rcases hn h hm with e | e
      · exact nd.2 _ _ h e hk
      · exact absurd hk (e.2.2 k ek)
    · subst ek
      rw [ho m em] at hm
      rcases hn h hk with e | e
      · exact nd.2 _ _ h hm e
      · exact absurd hm (e.2.2 m em)
    · rw [ho m em] at hm; rw [ho k ek] at hk; exact nd.2 _ _ h hm hk
  · rw [mem_liveHandles_iff, hv] at hh
    rcases hh with hh | ⟨m, hh⟩
    · exact ge h (.inl hh)
    · by_cases e : m = n
      · subst e
        rcases hn h hh with e | e
        · exact ge h (.inr ⟨m, e⟩)
        · exact e.1
      · rw [ho m e] at hh; exact ge h (.inr ⟨m, hh⟩)

/-! ## The relation -/

/-- The image bytes that a command or a poll of socket `n` can write: the status, Sn_TX_RD, Sn_RX_RD,
and the lease (42 R266). -/
def touched (n : SockId) (a : Nat) : Prop :=
  a = snSr n ∨ a = snTxRd n ∨ a = snTxRd n + 1 ∨ a = snRxRd n ∨ a = snRxRd n + 1 ∨ leaseByte a

/-- Everything a command or a poll of socket `n` can do, and what it keeps. -/
structure Keeps (n : SockId) (s t : State) : Prop where
  aside : t.aside = s.aside
  others : ∀ m, m ≠ n → t.sock m = s.sock m
  image : ∀ a, ¬ touched n a → t.peek a = s.peek a
  wf : s.mem.wf imageDefault Config.memSize = true → t.mem.wf imageDefault Config.memSize = true
  staging : (s.sock n).staging.wf stagingDefault Config.stagingCap = true →
    (t.sock n).staging.wf stagingDefault Config.stagingCap = true
  sane : (s.sock n).sane n → (t.sock n).sane n
  owned : s.HandlesOwned → t.HandlesOwned

theorem Keeps.refl (n : SockId) (s : State) : Keeps n s s :=
  ⟨rfl, fun _ _ => rfl, fun _ _ => rfl, id, id, id, id⟩

theorem Keeps.trans {n : SockId} {s t u : State} (h : Keeps n s t) (k : Keeps n t u) : Keeps n s u :=
  ⟨k.aside.trans h.aside, fun m e => (k.others m e).trans (h.others m e),
    fun a e => (k.image a e).trans (h.image a e), fun w => k.wf (h.wf w), fun w => k.staging (h.staging w),
    fun w => k.sane (h.sane w), fun w => k.owned (h.owned w)⟩

/-- Only the draws and the log differ. -/
theorem Keeps.of_eq {n : SockId} {s t : State} (ha : t.aside = s.aside) (hk : t.socks = s.socks)
    (hm : t.mem = s.mem) (hv : t.venv = s.venv) : Keeps n s t :=
  ⟨ha, fun m _ => by simp [State.sock, hk], fun a _ => by simp [State.peek, hm], fun w => hm ▸ w,
    fun w => by simpa [State.sock, hk] using w, fun w => by simpa [State.sock, hk] using w,
    fun o => handlesOwned_of_sub o (by rw [hk]) (.inl (by rw [hv]))⟩

theorem VnetKeeps.keeps {s t : State} (k : VnetKeeps s t) (n : SockId) : Keeps n s t :=
  ⟨k.aside, fun m _ => by simp [State.sock, k.socks],
    fun a h => k.image a fun l => h (by unfold touched; tauto), k.wf,
    fun w => by simpa [State.sock, k.socks] using w, fun w => by simpa [State.sock, k.socks] using w,
    k.owned⟩

variable (s : State) (n : SockId)

theorem keeps_ask (c : EnvCall) : Keeps n s (s.ask c).2 :=
  .of_eq (by simp) (by simp) (by simp) (by simp)

theorem keeps_nextAnswer : Keeps n s s.nextAnswer.2 := .of_eq (by simp) (by simp) (by simp) (by simp)

theorem keeps_hostClose (h : Handle) : Keeps n s (s.hostClose h) :=
  .of_eq (by simp) (by simp) (by simp) (by simp)

/-- A store inside the image at a byte the socket may touch. -/
theorem keeps_poke (a : Nat) (v : Byte) (ha : touched n a) (hs : a < 0x8000) : Keeps n s (s.poke a v) := by
  refine ⟨by simp, by simp, fun b hb => ?_, fun w => Memory.wf_write _ _ _ _ _ w hs, by simp, by simp,
    fun o => handlesOwned_of_sub o (by simp) (by simp)⟩
  rw [peek_poke, if_neg]
  rintro rfl
  exact hb ha

theorem snSr_lt : snSr n < 0x8000 := by unfold snSr sockBase; omega

theorem keeps_setStatus (v : Byte) : Keeps n s (s.setStatus n v) :=
  keeps_poke s n _ v (.inl rfl) (snSr_lt n)

theorem keeps_put16_txRd (v : Word16) : Keeps n s (s.put16 (snTxRd n) v) :=
  (keeps_poke s n _ _ (by unfold touched; tauto) (by unfold snTxRd sockBase; omega)).trans
    (keeps_poke _ n _ _ (by unfold touched; tauto) (by unfold snTxRd sockBase; omega))

theorem keeps_put16_rxRd (v : Word16) : Keeps n s (s.put16 (snRxRd n) v) :=
  (keeps_poke s n _ _ (by unfold touched; tauto) (by unfold snRxRd sockBase; omega)).trans
    (keeps_poke _ n _ _ (by unfold touched; tauto) (by unfold snRxRd sockBase; omega))

/-- A socket's extension state replaced by one that is as sane, as canonical, and has no new handle. -/
theorem keeps_setSock (x : Sock)
    (hw : (s.sock n).staging.wf stagingDefault Config.stagingCap = true →
      x.staging.wf stagingDefault Config.stagingCap = true)
    (hsane : (s.sock n).sane n → x.sane n) (hh : x.handle = (s.sock n).handle ∨ x.handle = none) :
    Keeps n s (s.setSock n x) := by
  refine ⟨by simp, fun m e => by simp [sock_setSock, e], by simp, by simp, by simpa [sock_setSock] using hw,
    by simpa [sock_setSock] using hsane, fun o => ?_⟩
  refine handlesOwned_of_sock n o (by simp) (fun m e => by simp [sock_setSock, e]) fun h e => .inl ?_
  simp only [sock_setSock, ↓reduceIte] at e
  rcases hh with hh | hh
  · rw [← hh, e]
  · rw [hh] at e; cases e

theorem keeps_release : Keeps n s (s.release n) := by
  unfold State.release
  cases hh : (s.sock n).handle with
  | none =>
    exact keeps_setSock s n _ id (fun h => ⟨h.1, by simp, h.2.2⟩) (.inr rfl)
  | some h' =>
    exact (keeps_hostClose s n h').trans
      (keeps_setSock _ n _ (by simp) (by simpa using fun h => ⟨h.1, by simp, h.2.2⟩) (.inr rfl))

theorem keeps_setMacraw (b : Bool) (hb : b = true → n = 0) : Keeps n s (s.setMacraw n b) :=
  keeps_setSock s n _ id (fun h => ⟨hb, h.2⟩) (.inl rfl)

theorem keeps_setFill (h t : Nat) (hh : h ≤ 4096)
    (ht : (s.sock n).rxTail ≤ 4096 → t ≤ 4096) : Keeps n s (s.setFill n h t) :=
  keeps_setSock s n _ id (fun k => ⟨k.1, k.2.1, hh, ht k.2.2.2⟩) (.inl rfl)

theorem keeps_setConnecting_false : Keeps n s (s.setConnecting n false) :=
  keeps_setSock s n _ id (fun k => ⟨k.1, by simp, k.2.2⟩) (.inl rfl)

theorem keeps_setConnecting_true (h : (s.sock n).handle ≠ none) : Keeps n s (s.setConnecting n true) :=
  keeps_setSock s n _ id (fun k => ⟨k.1, fun _ => h, k.2.2⟩) (.inl rfl)

/-- A handle that no other owner has is given to the socket. -/
theorem keeps_setHandle (h : Handle) (h3 : 3 ≤ h) (hv : s.venv.handle ≠ some h)
    (ho : ∀ m, m ≠ n → (s.sock m).handle ≠ some h) : Keeps n s (s.setHandle n (some h)) := by
  refine ⟨by simp, fun m e => by simp [sock_setHandle, e], by simp, by simp, by simp [sock_setHandle],
    ?_, fun o => ?_⟩
  · simpa [sock_setHandle] using fun k : (s.sock n).sane n => ⟨k.1, by simp, k.2.2⟩
  · refine handlesOwned_of_sock n o (by simp) (fun m e => by simp [sock_setHandle, e]) fun x e => .inr ?_
    simp only [sock_setHandle, ↓reduceIte, Option.some.injEq] at e
    subst e
    exact ⟨h3, hv, ho⟩

theorem keeps_rxInject (f : Frame) : Keeps n s (s.rxInject n f) := by
  unfold State.rxInject
  dsimp only
  split
  · exact .refl n s
  · next h =>
    refine keeps_setSock s n _ (fun w => wf_stageLinear _ _ _ w ?_) (fun k => ⟨k.1, k.2.1, k.2.2.1, ?_⟩)
      (.inl rfl)
    · rw [length_framed]; omega
    · show (s.sock n).rxTail + f.length + 2 ≤ 4096
      omega

theorem keeps_rxInjectAll (l : List Frame) : Keeps n s (s.rxInjectAll n l) := by
  induction l generalizing s with
  | nil => exact .refl n s
  | cons f fs ih => exact (keeps_rxInject s n f).trans (ih _)

theorem keeps_stage (d : List Byte) : Keeps n s (s.stage n d) :=
  keeps_setSock s n _ (fun w => wf_stageRing _ _ _ w)
    (fun k => ⟨k.1, k.2.1, k.2.2.1, (Nat.mod_lt _ (by omega)).le.trans (by show 2048 ≤ 4096; omega)⟩) (.inl rfl)

/-! ## From the relation to the invariant -/

/-- What a command or a poll of one socket keeps of the invariants. -/
theorem Keeps.sound {n : SockId} {s t : State} (k : Keeps n s t) (h : s.Sound) : t.Sound := by
  obtain ⟨⟨hm, hr, hst⟩, ⟨hcr, h0⟩, hc, hsane, ho, hsl⟩ := h
  have ha := k.aside
  simp only [State.aside, Aside.mk.injEq] at ha
  have nt : ∀ m, ¬ touched n (snCr m) := by
    intro m
    unfold touched leaseByte snCr snSr snTxRd snRxRd sockBase
    omega
  have nt0 : ¬ touched n 0 := by
    unfold touched leaseByte snSr snTxRd snRxRd sockBase
    omega
  refine ⟨⟨k.wf hm, by rw [ha.2.2.2.1]; exact hr, fun m => ?_⟩,
    ⟨fun m => by rw [k.image _ (nt m)]; exact hcr m, by rw [k.image _ nt0]; exact h0⟩,
    by unfold State.ControlsMasked; rw [ha.2.1]; exact hc, fun m => ?_, k.owned ho,
    by unfold State.SlotsLegal; rw [ha.2.2.2.2.1]; exact hsl⟩
  · by_cases e : m = n
    · subst e; exact k.staging (hst m)
    · rw [k.others m e]; exact hst m
  · by_cases e : m = n
    · subst e; exact k.sane (hsane m)
    · rw [k.others m e]; exact hsane m

end Sys2Proof.Machine
end

