-- ==== Sys2Proof/Laws/Commands.lean ====
section
/-! SUPPORT. The socket commands: everything each of them can do (41 R200 to R213). -/

namespace Sys2Proof.Machine

variable (s : State) (n : SockId)

/-! ## The relation -/

/-- A handle answered after a release of `n` is one that no other owner has. -/
theorem fresh_of_asHandle_release {a : HostAnswer} {h : Handle}
    (e : a.asHandle (s.release n).liveHandles = some h) :
    3 ≤ h ∧ s.venv.handle ≠ some h ∧ ∀ m, m ≠ n → (s.sock m).handle ≠ some h := by
  obtain ⟨h3, hf⟩ := HostAnswer.asHandle_fresh e
  rw [mem_liveHandles_iff, not_or, not_exists] at hf
  refine ⟨h3, by simpa using hf.1, fun m hm => ?_⟩
  have := hf.2 m
  rwa [sock_release, if_neg hm] at this

theorem keeps_openHost (call : EnvCall) (v : Byte) : Keeps n s (s.openHost n call v) := by
  have k1 := (keeps_release s n).trans (keeps_ask _ n call)
  unfold State.openHost
  dsimp only
  split
  · exact k1.trans (keeps_setStatus _ n _)
  · next h e =>
    have hf := fresh_of_asHandle_release s n e
    refine (k1.trans (keeps_setHandle _ n h hf.1 (by simpa using hf.2.1) fun m hm => ?_)).trans
      (keeps_setStatus _ n _)
    simpa [sock_release, hm] using hf.2.2 m hm

theorem keeps_openMacraw : Keeps 0 s s.openMacraw :=
  ((keeps_release s 0).trans (keeps_setMacraw _ 0 true (fun _ => rfl))).trans (keeps_setStatus _ 0 _)

theorem keeps_listen : Keeps n s (s.listen n) := by
  unfold State.listen
  split
  · exact .refl n s
  · have fails : ∀ t, Keeps n s t → Keeps n s
        (if t.nextAnswer.1.isClose then (t.nextAnswer.2.release n).setStatus n srClosed else t.nextAnswer.2) := by
      intro t k
      have k1 := k.trans (keeps_nextAnswer t n)
      split
      · exact (k1.trans (keeps_release _ n)).trans (keeps_setStatus _ n _)
      · exact k1
    cases (s.sock n).handle with
    | none => exact fails s (.refl n s)
    | some h =>
      have k := keeps_ask s n (.bindListen h (s.get16 (snPort n)) 1)
      dsimp only
      split
      · exact k.trans (keeps_setStatus _ n _)
      · exact fails _ k

theorem keeps_connect : Keeps n s (s.connect n) := by
  unfold State.connect
  split
  · exact .refl n s
  · cases hh : (s.sock n).handle with
    | none => exact (keeps_release s n).trans (keeps_setStatus _ n _)
    | some h =>
      have k := keeps_ask s n (.connect h (redirect (s.getIp (snDipr n))) (s.get16 (snDport n)))
      dsimp only
      split
      · exact k.trans (keeps_setStatus _ n _)
      · exact (k.trans (keeps_setStatus _ n _)).trans (keeps_setConnecting_true _ n (by simp [hh]))
      · exact (k.trans (keeps_release _ n)).trans (keeps_setStatus _ n _)

theorem keeps_closeSocket : Keeps n s (s.closeSocket n) :=
  (((keeps_release s n).trans (keeps_setFill _ n 0 0 (by omega) (by omega))).trans
    (keeps_setMacraw _ n false (by simp))).trans (keeps_setStatus _ n _)

theorem keeps_sendTcp : Keeps n s (s.sendTcp n) := by
  unfold State.sendTcp
  split
  · exact .refl n s
  · dsimp only
    cases (s.sock n).handle with
    | none => exact keeps_put16_txRd s n _
    | some h =>
      dsimp only
      by_cases hl : s.txLen n = 0
      · rw [if_pos hl]; exact keeps_put16_txRd s n _
      · rw [if_neg hl]; exact (keeps_ask s n (.send h (s.txData n))).trans (keeps_put16_txRd _ n _)

theorem keeps_sendMacraw : Keeps n s (s.sendMacraw n) := by
  unfold State.sendMacraw
  split
  · exact .refl n s
  · have k := keeps_put16_txRd s n (s.get16 (snTxWr n))
    dsimp only
    split
    · exact k
    · exact (k.trans ((vnetFrame_spec _ _).1.keeps n)).trans (keeps_rxInjectAll _ n _)

/-- Everything RECV can do where it is not refused (41 R210). -/
theorem recv_spec (t : State) (h : s.recv n = .ok t) : Keeps n s t := by
  unfold State.recv at h
  split at h
  · cases h
  · next fill hf =>
    split at h
    · cases h
    · next hd =>
      dsimp only at h
      by_cases hm : (s.sock n).macraw = true
      · have hle : (s.sock n).rxHead + s.recvDelta n ≤ (s.sock n).rxTail := by
          unfold Sock.rsr at hf
          rw [if_pos hm] at hf
          split at hf <;> cases hf
          omega
        rw [if_pos hm] at h
        split at h <;> cases h
        · exact (keeps_setFill s n 0 0 (by omega) (by omega)).trans (keeps_put16_rxRd _ n _)
        · refine keeps_setSock s n _ id (fun k => ⟨k.1, k.2.1, ?_, k.2.2.2⟩) (.inl rfl)
          exact hle.trans k.2.2.2
      · rw [if_neg hm] at h
        split at h <;> cases h
        · exact (keeps_setFill s n 0 0 (by omega) (by omega)).trans (keeps_put16_rxRd _ n _)
        · exact keeps_setFill s n _ _ ((Nat.mod_lt _ (by omega)).le.trans (by omega)) id

/-- Where RECV is refused, and under which name (93 U4, U14; log 20, 21). -/
theorem recv_error_iff (x : Refusal) : s.recv n = .error x ↔
    ((s.sock n).tailBelowHead ∧ x = .macrawTailBelowHead)
      ∨ ∃ fill, (s.sock n).rsr = some fill ∧ fill < s.recvDelta n ∧ x = .recvBeyondStaged := by
  have hn : (s.sock n).rsr = none ↔ (s.sock n).tailBelowHead := rsr_eq_none_iff _
  unfold State.recv
  cases hr : (s.sock n).rsr with
  | none => simp [← hn, hr, eq_comm]
  | some fill =>
    have : ¬ (s.sock n).tailBelowHead := by rw [← hn, hr]; simp
    dsimp only
    by_cases hf : fill < s.recvDelta n
    · simp [this, hf, eq_comm]
    · rw [if_neg hf]
      generalize (if (s.sock n).macraw = true then _ else _ : Nat) = d
      split <;> simp [this, hf]

/-- Only RECV is refused (93 U4, U14). -/
theorem dispatchCommand_error_iff (c : Byte) (x : Refusal) :
    s.dispatchCommand n c = .error x ↔ c = 0x40 ∧ s.recv n = .error x := by
  constructor
  · intro h
    unfold State.dispatchCommand at h
    split_ifs at h
    · split at h <;> cases h
    · exact ⟨by assumption, h⟩
  · rintro ⟨rfl, h⟩
    exact h

/-- Everything a command that is not refused can do. -/
theorem dispatchCommand_keeps (c : Byte) (t : State) (h : s.dispatchCommand n c = .ok t) : Keeps n s t := by
  unfold State.dispatchCommand at h
  split_ifs at h
  · split at h
    · cases h; exact keeps_openHost s n _ _
    · cases h; exact keeps_openHost s n _ _
    · next e =>
      cases h
      have : n = 0 := by
        unfold openKindOf at e
        split_ifs at e with h1 h2 h3
        exact h3.2
      subst this
      exact keeps_openMacraw s
    · cases h; exact .refl n s
  · cases h; exact keeps_listen s n
  · cases h; exact keeps_connect s n
  · cases h; exact keeps_closeSocket s n
  · cases h; exact keeps_closeSocket s n
  · cases h; exact keeps_sendMacraw s n
  · cases h; exact keeps_sendTcp s n
  · exact recv_spec s n t h
  · cases h; exact .refl n s

end Sys2Proof.Machine
end

