-- ==== Sys2Proof/Laws/Decode.lean ====
section
/-! SUPPORT. The access word and the image addresses: packing and unpacking agree, the masks of the opcode table over a packed word, the classes of 30 R132 and R133. -/

namespace Sys2Proof

/-! ## The access word (30 R122) -/

theorem packAccess_toNat (a : Access) :
    (packAccess a).toNat = a.card.toNat * 0x80000 + a.space.toNat * 0x40000 + a.rw.toNat * 0x20000
      + a.off.toNat * 0x100 + a.val.toNat := by
  have := a.off.isLt
  have := a.val.isLt
  have := Bool.toNat_le a.card
  have := Bool.toNat_le a.space
  have := Bool.toNat_le a.rw
  unfold packAccess
  rw [BitVec.toNat_ofNat]
  omega

/-- An access that is one unpacks from its word (30 R122). -/
theorem unpack_pack (a : Access) (h1 : a.rw = false → a.val = 0)
    (h2 : a.space = false → a.off.toNat < 16) : unpackAccess (packAccess a) = .ok a := by
  obtain ⟨card, space, rw', off, val⟩ := a
  have ho := off.isLt
  have hv := val.isLt
  have e := packAccess_toNat ⟨card, space, rw', off, val⟩
  have hc : (packAccess ⟨card, space, rw', off, val⟩).toNat / 0x80000 % 2 = card.toNat := by
    rw [e]; cases card <;> cases space <;> cases rw' <;> simp <;> omega
  have hs : (packAccess ⟨card, space, rw', off, val⟩).toNat / 0x40000 % 2 = space.toNat := by
    rw [e]; cases card <;> cases space <;> cases rw' <;> simp <;> omega
  have hr : (packAccess ⟨card, space, rw', off, val⟩).toNat / 0x20000 % 2 = rw'.toNat := by
    rw [e]; cases card <;> cases space <;> cases rw' <;> simp <;> omega
  have hoff : BitVec.ofNat 8 ((packAccess ⟨card, space, rw', off, val⟩).toNat / 0x100) = off := by
    apply BitVec.eq_of_toNat_eq
    rw [BitVec.toNat_ofNat, e]; cases card <;> cases space <;> cases rw' <;> simp <;> omega
  have hval : BitVec.ofNat 8 (packAccess ⟨card, space, rw', off, val⟩).toNat = val := by
    apply BitVec.eq_of_toNat_eq
    rw [BitVec.toNat_ofNat, e]; cases card <;> cases space <;> cases rw' <;> simp <;> omega
  have hw : ¬ 0x100000 ≤ (packAccess ⟨card, space, rw', off, val⟩).toNat := by
    rw [e]; cases card <;> cases space <;> cases rw' <;> simp <;> omega
  have h16 : ¬ (packAccess ⟨card, space, rw', off, val⟩).toNat / 0x10000 % 2 = 1 := by
    rw [e]; cases card <;> cases space <;> cases rw' <;> simp <;> omega
  have bt : ∀ b : Bool, (b.toNat == 1) = b := by decide
  unfold unpackAccess
  simp only [hc, hs, hr, hoff, hval, bt]
  rw [if_neg hw, if_neg h16, if_neg (fun h => h.2 (h1 h.1)), if_neg (fun h => by
    have h3 : off.toNat < 16 := h2 h.1
    exact absurd h.2 (by show ¬ 16 ≤ off.toNat; omega))]

/-- What a word that encodes an access unpacks to satisfies the constraints of 30 R122, and packs to the
word. -/
theorem pack_unpack (w : BitVec 24) (a : Access) (h : unpackAccess w = .ok a) :
    packAccess a = w ∧ (a.rw = false → a.val = 0) ∧ (a.space = false → a.off.toNat < 16) := by
  unfold unpackAccess at h
  dsimp only at h
  split_ifs at h with h1 h2 h3 h4
  cases h
  refine ⟨?_, fun hr => ?_, fun hs => ?_⟩
  · apply BitVec.eq_of_toNat_eq
    rw [packAccess_toNat]
    have bt : ∀ n : Nat, ((n % 2) == 1).toNat = n % 2 := by
      intro n
      rcases Nat.mod_two_eq_zero_or_one n with e | e <;> simp [e]
    simp only [bt, BitVec.toNat_ofNat]
    omega
  · by_contra hv; exact h3 ⟨hr, hv⟩
  · by_contra hv; exact h4 ⟨hs, by simpa using hv⟩

/-- The fields of a packed word as a string of bits. -/
theorem packAccess_append (a : Access) :
    packAccess a =
      (BitVec.ofNat 8 (a.card.toNat * 8 + a.space.toNat * 4 + a.rw.toNat * 2) ++ a.off : BitVec 16)
        ++ a.val := by
  have ho := a.off.isLt
  have hv := a.val.isLt
  apply BitVec.eq_of_toNat_eq
  rw [packAccess_toNat]
  have e1 : ((BitVec.ofNat 8 (a.card.toNat * 8 + a.space.toNat * 4 + a.rw.toNat * 2) ++ a.off : BitVec 16)).toNat
      = (a.card.toNat * 8 + a.space.toNat * 4 + a.rw.toNat * 2) * 256 + a.off.toNat := by
    rw [BitVec.toNat_append, ← Nat.shiftLeft_add_eq_or_of_lt ho, Nat.shiftLeft_eq, BitVec.toNat_ofNat]
    have := Bool.toNat_le a.card
    have := Bool.toNat_le a.space
    have := Bool.toNat_le a.rw
    omega
  rw [BitVec.toNat_append, ← Nat.shiftLeft_add_eq_or_of_lt hv, Nat.shiftLeft_eq, e1]
  omega

/-- A mask over two strings of bits is a mask over each. -/
theorem append_and_append {m n : Nat} (x a : BitVec m) (y b : BitVec n) :
    (x ++ y) &&& (a ++ b) = (x &&& a) ++ (y &&& b) := by
  ext i hi
  simp only [BitVec.getElem_and, BitVec.getElem_append]
  split <;> rfl

/-- A mask over a packed word is a mask over each of its three bytes. -/
theorem packAccess_and (a : Access) (mh mo mv : BitVec 8) :
    packAccess a &&& ((mh ++ mo : BitVec 16) ++ mv) =
      ((BitVec.ofNat 8 (a.card.toNat * 8 + a.space.toNat * 4 + a.rw.toNat * 2) &&& mh) ++ (a.off &&& mo)
        : BitVec 16) ++ (a.val &&& mv) := by
  rw [packAccess_append]
  exact (append_and_append _ _ _ _).trans (congrArg (· ++ (a.val &&& mv)) (append_and_append _ _ _ _))

/-! ## Image addresses (30 R125, R132, R133) -/

theorem pageAddr_toNat (n : SockId) (o : Byte) : (pageAddr n o).toNat = 0x400 + n.val * 0x100 + o.toNat := by
  have := o.isLt
  unfold pageAddr
  rw [BitVec.toNat_ofNat]
  omega

end Sys2Proof
end

