-- ==== Sys2Proof/Laws/Poll.lean ====
section
/-! SUPPORT. The read-time polls: everything each of them can do (42 R240 to R247), and what they leave of a socket in MACRAW mode. -/

namespace Sys2Proof.Machine

variable (s : State) (n : SockId)

/-! ## The relation -/

theorem keeps_peerClosed : Keeps n s (s.peerClosed n) :=
  (keeps_release s n).trans (keeps_setStatus _ n _)

theorem keeps_pollConnect : Keeps n s (s.pollConnect n) := by
  unfold State.pollConnect
  split
  · exact .refl n s
  · next h _ =>
    split
    · exact .refl n s
    · have k1 := keeps_ask s n (.writable h)
      dsimp only
      split
      · exact k1
      · have k2 := (k1.trans (keeps_ask _ n (.soError h))).trans (keeps_setConnecting_false _ n)
        split
        · exact k2.trans (keeps_setStatus _ n _)
        · exact (k2.trans (keeps_release _ n)).trans (keeps_setStatus _ n _)

theorem keeps_pollReceive : Keeps n s (s.pollReceive n) := by
  unfold State.pollReceive
  split
  · exact .refl n s
  · next h _ =>
    split
    · exact .refl n s
    · have k1 := keeps_ask s n (.readable h)
      dsimp only
      split
      · exact k1
      · split
        · exact k1
        · have k2 := k1.trans (keeps_ask _ n (.recv h (2047 - ringFill (s.sock n).rxHead (s.sock n).rxTail)))
          split
          · exact k2
          · exact k2.trans (keeps_peerClosed _ n)
          · exact k2.trans (keeps_stage _ n _)

theorem keeps_pollAccept : Keeps n s (s.pollAccept n) := by
  unfold State.pollAccept
  split
  · exact .refl n s
  · next h _ =>
    split
    · exact .refl n s
    · have k1 := keeps_ask s n (.readable h)
      dsimp only
      split
      · exact k1
      · have k2 := k1.trans (keeps_ask _ n (.accept h))
        split
        · exact k2
        · next h' e =>
          obtain ⟨h3, hf⟩ := HostAnswer.asHandle_fresh e
          rw [mem_liveHandles_iff, not_or, not_exists] at hf
          exact ((k2.trans (keeps_hostClose _ n h)).trans
            (keeps_setHandle _ n h' h3 (by simpa using hf.1) (by simpa using fun m _ => hf.2 m))).trans
            (keeps_setStatus _ n _)

theorem keeps_socketPoll : Keeps n s (s.socketPoll n) :=
  ((keeps_pollConnect s n).trans (keeps_pollReceive _ n)).trans (keeps_pollAccept _ n)

theorem keeps_virtualTcpPoll : Keeps 0 s s.virtualTcpPoll :=
  ((vnetPoll_spec s).1.keeps 0).trans (keeps_rxInjectAll _ 0 _)

/-- A poll never changes the MACRAW flag. -/
theorem socketPoll_macraw (m : SockId) : ((s.socketPoll n).sock m).macraw = (s.sock m).macraw := by
  have hc : ∀ t : State, ((t.pollConnect n).sock m).macraw = (t.sock m).macraw := by
    intro t
    unfold State.pollConnect
    dsimp only
    split
    · rfl
    · split_ifs <;> simp [sock_release, sock_setConnecting] <;> split_ifs <;> simp_all
  have hr : ∀ t : State, ((t.pollReceive n).sock m).macraw = (t.sock m).macraw := by
    intro t
    unfold State.pollReceive State.peerClosed
    dsimp only
    split
    · rfl
    · split_ifs
      all_goals try simp
      split <;> simp [sock_release, sock_stage] <;> split_ifs <;> simp_all
  have ha : ∀ t : State, ((t.pollAccept n).sock m).macraw = (t.sock m).macraw := by
    intro t
    unfold State.pollAccept
    dsimp only
    split
    · rfl
    · split_ifs
      all_goals try simp
      split
      all_goals simp [sock_setHandle]
      all_goals split_ifs <;> simp_all
  unfold State.socketPoll
  rw [ha, hr, hc]

/-- Everything a read of a socket's page does before the byte is formed (40 R172), as long as only
socket 0 is in MACRAW mode. -/
theorem keeps_pagePoll (h : (s.sock n).macraw = true → n = 0) : Keeps n s (s.pagePoll n) := by
  unfold State.pagePoll
  dsimp only
  split
  · next e =>
    rw [socketPoll_macraw] at e
    have := h e
    subst this
    exact (keeps_socketPoll s 0).trans (keeps_virtualTcpPoll _)
  · exact keeps_socketPoll s n

/-- With no handle the poll does nothing (42 R240). -/
theorem socketPoll_of_handle_none (h : (s.sock n).handle = none) : s.socketPoll n = s := by
  have hc : s.pollConnect n = s := by unfold State.pollConnect; rw [h]
  have hr : s.pollReceive n = s := by unfold State.pollReceive; rw [h]
  have ha : s.pollAccept n = s := by unfold State.pollAccept; rw [h]
  unfold State.socketPoll
  rw [hc, hr, ha]

/-! ## The image under a poll -/

/-- A connect, receive or accept step writes no image byte but the status. -/
theorem socketPoll_peek (a : Nat) (ha : a ≠ snSr n) : (s.socketPoll n).peek a = s.peek a := by
  have hc : ∀ t : State, (t.pollConnect n).peek a = t.peek a := by
    intro t
    unfold State.pollConnect
    dsimp only
    split
    · rfl
    · split_ifs <;> simp [peek_setStatus, ha]
  have hr : ∀ t : State, (t.pollReceive n).peek a = t.peek a := by
    intro t
    unfold State.pollReceive State.peerClosed
    dsimp only
    split
    · rfl
    · split_ifs
      all_goals try simp
      split <;> simp [peek_setStatus, ha]
  have hp : ∀ t : State, (t.pollAccept n).peek a = t.peek a := by
    intro t
    unfold State.pollAccept
    dsimp only
    split
    · rfl
    · split_ifs
      all_goals try simp
      split <;> simp [peek_setStatus, ha]
  unfold State.socketPoll
  rw [hp, hr, hc]

/-- The poll of the virtual TCP flow writes no image byte (42 R264). -/
theorem virtualTcpPoll_mem : s.virtualTcpPoll.mem = s.mem := by
  unfold State.virtualTcpPoll
  simp [(vnetPoll_spec s).2.1]

/-- A read of a socket's page writes no image byte but the status. -/
theorem pagePoll_peek (a : Nat) (ha : a ≠ snSr n) : (s.pagePoll n).peek a = s.peek a := by
  unfold State.pagePoll
  dsimp only
  split
  · rw [← socketPoll_peek s n a ha]
    simp [State.peek, virtualTcpPoll_mem]
  · exact socketPoll_peek s n a ha

/-- The sockets other than 0 do not see the poll of the virtual TCP flow. -/
theorem virtualTcpPoll_sock (m : SockId) (hm : m ≠ 0) : (s.virtualTcpPoll).sock m = s.sock m :=
  (keeps_virtualTcpPoll s).others m hm

/-! ## The fill level under a poll -/

/-- What an injection leaves of its socket: only the buffer and the tail change, and the tail does not
move back. -/
theorem rxInject_fill (f : Frame) :
    ((s.rxInject n f).sock n).rxHead = (s.sock n).rxHead
      ∧ (s.sock n).rxTail ≤ ((s.rxInject n f).sock n).rxTail
      ∧ ((s.rxInject n f).sock n).macraw = (s.sock n).macraw
      ∧ ((s.rxInject n f).sock n).handle = (s.sock n).handle
      ∧ ((s.rxInject n f).sock n).connecting = (s.sock n).connecting := by
  rw [sock_rxInject]
  split
  · exact ⟨rfl, by show _ ≤ (s.sock n).rxTail + f.length + 2; omega, rfl, rfl, rfl⟩
  · exact ⟨rfl, le_refl _, rfl, rfl, rfl⟩

theorem rxInjectAll_fill (l : List Frame) :
    ((s.rxInjectAll n l).sock n).rxHead = (s.sock n).rxHead
      ∧ (s.sock n).rxTail ≤ ((s.rxInjectAll n l).sock n).rxTail
      ∧ ((s.rxInjectAll n l).sock n).macraw = (s.sock n).macraw
      ∧ ((s.rxInjectAll n l).sock n).handle = (s.sock n).handle
      ∧ ((s.rxInjectAll n l).sock n).connecting = (s.sock n).connecting := by
  induction l generalizing s with
  | nil => exact ⟨rfl, le_refl _, rfl, rfl, rfl⟩
  | cons f fs ih =>
    obtain ⟨a, b, c, d, e⟩ := rxInject_fill s n f
    obtain ⟨a', b', c', d', e'⟩ := ih (s.rxInject n f)
    exact ⟨a'.trans a, b.trans b', c'.trans c, d'.trans d, e'.trans e⟩

/-- What the poll of the virtual TCP flow leaves of socket 0. -/
theorem virtualTcpPoll_fill :
    (s.virtualTcpPoll.sock 0).rxHead = (s.sock 0).rxHead
      ∧ (s.sock 0).rxTail ≤ (s.virtualTcpPoll.sock 0).rxTail
      ∧ (s.virtualTcpPoll.sock 0).macraw = (s.sock 0).macraw
      ∧ (s.virtualTcpPoll.sock 0).handle = (s.sock 0).handle
      ∧ (s.virtualTcpPoll.sock 0).connecting = (s.sock 0).connecting := by
  have hk : ∀ m, s.vnetPoll.2.sock m = s.sock m := fun m => by
    simp [State.sock, (vnetPoll_spec s).1.socks]
  have := rxInjectAll_fill s.vnetPoll.2 0 s.vnetPoll.1
  simpa [State.virtualTcpPoll, hk] using this

/-- After a read's polls the fill level has a value, where it had one before whatever the poll staged
(93 U14). -/
theorem pagePoll_rsr (h : s.fillDefined n) : ∃ v, ((s.pagePoll n).sock n).rsr = some v := by
  unfold State.pagePoll
  dsimp only
  rw [socketPoll_macraw]
  by_cases hm : (s.sock n).macraw = true
  · rcases h with h | ⟨hh, hle⟩
    · rw [hm] at h; cases h
    · rw [if_pos hm, socketPoll_of_handle_none s n hh]
      by_cases hn : n = 0
      · subst hn
        obtain ⟨a, b, c, -, -⟩ := virtualTcpPoll_fill s
        refine ⟨(s.virtualTcpPoll.sock 0).rxTail - (s.virtualTcpPoll.sock 0).rxHead, ?_⟩
        unfold Sock.rsr
        rw [c, if_pos hm, if_pos (by omega)]
      · rw [virtualTcpPoll_sock s n hn]
        exact ⟨_, by unfold Sock.rsr; rw [if_pos hm, if_pos hle]⟩
  · rw [if_neg hm]
    unfold Sock.rsr
    rw [socketPoll_macraw, if_neg hm]
    exact ⟨_, rfl⟩

end Sys2Proof.Machine
end

