-- ==== Sys2Proof/Laws/Image.lean ====
section
/-! SUPPORT. The bus paths into the image and the reset: everything a read, a write and a mode write can do, and what they keep of the invariants. -/

namespace Sys2Proof.Machine

variable (s : State)

/-! ## Reads -/

/-- Everything a read of the bus-read path can do: nothing, or the polls of one socket's page (40 R170,
R172). -/
theorem memRead_cases (a : Word16) (r : Byte × State) (h : s.memRead a = .ok r) :
    r.2 = s ∨ (a.toNat / 0x400 = 1 ∧ r.2 = s.pagePoll (Fin.ofNat 4 (a.toNat / 0x100))) := by
  unfold State.memRead State.readPage at h
  dsimp only at h
  split_ifs at h with h1 h2
  · cases h; exact .inl rfl
  · split at h <;> cases h
    exact .inr ⟨h2, rfl⟩
  · cases h; exact .inl rfl
  · cases h; exact .inl rfl

/-! ## Writes -/

/-- Everything a write of the bus-write path can do: nothing, a mode write, a command, or one byte stored
that is neither the mode byte nor a command register (40 R180). -/
theorem memWrite_cases (a : Word16) (v : Byte) (t : State) (h : s.memWrite a v = .ok t) :
    (0x8000 ≤ a.toNat ∧ t = s) ∨ (a.toNat = 0 ∧ t = s.writeMode v)
      ∨ (∃ n u, a.toNat = snCr n ∧ s.dispatchCommand n v = .ok u ∧ t = u.poke (snCr n) 0)
      ∨ (a.toNat < 0x8000 ∧ a.toNat ≠ 0 ∧ (∀ n, a.toNat ≠ snCr n) ∧ t = s.poke a.toNat v) := by
  unfold State.memWrite State.writeCommand at h
  dsimp only at h
  split_ifs at h with h1 h2 h3
  · cases h; exact .inl ⟨h1, rfl⟩
  · cases h; exact .inr (.inl ⟨h2, rfl⟩)
  · split at h
    · next u e =>
      cases h
      refine .inr (.inr (.inl ⟨_, u, ?_, e, rfl⟩))
      have : (Fin.ofNat 4 (a.toNat / 0x100)).val = a.toNat / 0x100 % 4 := rfl
      unfold snCr sockBase
      omega
    · cases h
  · cases h
    refine .inr (.inr (.inr ⟨by omega, h2, fun n e => h3 ?_, rfl⟩))
    unfold snCr sockBase at e
    omega

/-! ## Refusals -/

/-- Where a read of a socket's page is refused: `Sn_RX_RSR` with no value after the polls (93 U14). -/
theorem readPage_error_iff (n : SockId) (o : Byte) (x : Refusal) : s.readPage n o = .error x ↔
    (o = 0x26 ∨ o = 0x27) ∧ ((s.pagePoll n).sock n).tailBelowHead ∧ x = .macrawTailBelowHead := by
  rw [← rsr_eq_none_iff]
  unfold State.readPage State.pageByte
  by_cases h1 : o = 0x20 ∨ o = 0x21
  · rcases h1 with rfl | rfl <;> simp
  · rw [if_neg h1]
    by_cases h2 : o = 0x26 ∨ o = 0x27
    · rw [if_pos h2, and_iff_right h2]
      cases ((s.pagePoll n).sock n).rsr <;> simp [eq_comm]
    · rw [if_neg h2]
      exact ⟨(fun h => by cases h), fun h => absurd h.1 h2⟩

/-- Where a read of the bus-read path is refused: at `Sn_RX_RSR` with no value after the polls (93 U14). -/
theorem memRead_error_iff (a : Word16) (x : Refusal) : s.memRead a = .error x ↔
    ∃ n, (a.toNat = sockBase n + 0x26 ∨ a.toNat = sockBase n + 0x27)
      ∧ ((s.pagePoll n).sock n).tailBelowHead ∧ x = .macrawTailBelowHead := by
  have ho : ∀ v : Nat, v < 256 → (BitVec.ofNat 8 a.toNat = BitVec.ofNat 8 v ↔ a.toNat % 256 = v) := by
    intro v hv
    rw [← BitVec.toNat_inj]
    simp [Nat.mod_eq_of_lt hv]
  unfold State.memRead
  dsimp only
  by_cases h1 : 0x8000 ≤ a.toNat
  · rw [if_pos h1]
    simp only [reduceCtorEq, false_iff, not_exists]
    rintro n ⟨h, -⟩
    unfold sockBase at h
    omega
  · rw [if_neg h1]
    by_cases h2 : a.toNat / 0x400 = 1
    · rw [if_pos h2, readPage_error_iff]
      have hv : (Fin.ofNat 4 (a.toNat / 0x100)).val = a.toNat / 0x100 % 4 := rfl
      rw [show (0x26 : Byte) = BitVec.ofNat 8 0x26 from rfl, show (0x27 : Byte) = BitVec.ofNat 8 0x27 from rfl,
        ho 0x26 (by omega), ho 0x27 (by omega)]
      constructor
      · rintro ⟨h, k⟩
        refine ⟨_, ?_, k⟩
        unfold sockBase
        omega
      · rintro ⟨n, h, k⟩
        have hn : Fin.ofNat 4 (a.toNat / 0x100) = n := Fin.ext (by unfold sockBase at h; omega)
        rw [hn]
        exact ⟨by unfold sockBase at h; omega, k⟩
    · rw [if_neg h2]
      have : ∀ n, ¬ (a.toNat = sockBase n + 0x26 ∨ a.toNat = sockBase n + 0x27) := by
        intro n h
        unfold sockBase at h
        omega
      split_ifs <;> simp [this]

/-- Where a write of a command register is refused (40 R183, 93 U4, U14). -/
theorem writeCommand_error_iff (n : SockId) (v : Byte) (x : Refusal) :
    s.writeCommand n v = .error x ↔ v = 0x40 ∧ s.recv n = .error x := by
  rw [← dispatchCommand_error_iff]
  unfold State.writeCommand
  cases s.dispatchCommand n v <;> simp

/-- Where a write of the bus-write path is refused: RECV (93 U4, U14). -/
theorem memWrite_error_iff (a : Word16) (v : Byte) (x : Refusal) :
    s.memWrite a v = .error x ↔ ∃ n, a.toNat = snCr n ∧ v = 0x40 ∧ s.recv n = .error x := by
  unfold State.memWrite
  dsimp only
  by_cases h1 : 0x8000 ≤ a.toNat
  · rw [if_pos h1]
    simp only [reduceCtorEq, false_iff, not_exists]
    rintro n ⟨h, -⟩
    unfold snCr sockBase at h
    omega
  · rw [if_neg h1]
    by_cases h2 : a.toNat = 0
    · rw [if_pos h2]
      simp only [reduceCtorEq, false_iff, not_exists]
      rintro n ⟨h, -⟩
      unfold snCr sockBase at h
      omega
    · rw [if_neg h2]
      by_cases h3 : a.toNat / 0x400 = 1 ∧ a.toNat % 0x100 = 1
      · rw [if_pos h3, writeCommand_error_iff]
        have hv : (Fin.ofNat 4 (a.toNat / 0x100)).val = a.toNat / 0x100 % 4 := rfl
        constructor
        · rintro ⟨h, k⟩
          exact ⟨_, by unfold snCr sockBase; omega, h, k⟩
        · rintro ⟨n, h, k⟩
          have hn : Fin.ofNat 4 (a.toNat / 0x100) = n := Fin.ext (by unfold snCr sockBase at h; omega)
          rw [hn]
          exact k
      · rw [if_neg h3]
        simp only [reduceCtorEq, false_iff, not_exists]
        rintro n ⟨h, -⟩
        unfold snCr sockBase at h
        omega

/-! ## Reset and mode -/

@[simp] theorem w5100Reset_mem : s.w5100Reset.mem = [] := rfl
@[simp] theorem w5100Reset_socks :
    s.w5100Reset.socks = ⟨Sock.reset, Sock.reset, Sock.reset, Sock.reset⟩ := rfl
@[simp] theorem w5100Reset_venv :
    s.w5100Reset.venv = { dhcpState := .idle, dhcpXid := 0, clientMac := 0, vtcp := none } := rfl
@[simp] theorem w5100Reset_addrPtr : s.w5100Reset.addrPtr = Config.addrPtrAfterReset s.resets := rfl
@[simp] theorem w5100Reset_resets : s.w5100Reset.resets = s.resets + 1 := rfl
@[simp] theorem w5100Reset_pia : s.w5100Reset.pia = s.pia := by unfold State.w5100Reset; simp
@[simp] theorem w5100Reset_mouse : s.w5100Reset.mouse = s.mouse := by unfold State.w5100Reset; simp
@[simp] theorem w5100Reset_mouseRom : s.w5100Reset.mouseRom = s.mouseRom := by unfold State.w5100Reset; simp
@[simp] theorem w5100Reset_params : s.w5100Reset.params = s.params := by unfold State.w5100Reset; simp
@[simp] theorem w5100Reset_pending : s.w5100Reset.pending = s.pending := by unfold State.w5100Reset; simp
@[simp] theorem w5100Reset_started : s.w5100Reset.started = s.started := by unfold State.w5100Reset; simp
@[simp] theorem w5100Reset_delivered : s.w5100Reset.delivered = s.delivered := by unfold State.w5100Reset; simp
@[simp] theorem w5100Reset_report : s.w5100Reset.report = s.report := by unfold State.w5100Reset; simp
@[simp] theorem w5100Reset_hostScript : s.w5100Reset.hostScript = s.hostScript := by unfold State.w5100Reset; simp
@[simp] theorem w5100Reset_hostDraws : s.w5100Reset.hostDraws = s.hostDraws := by unfold State.w5100Reset; simp
@[simp] theorem w5100Reset_vnetScript : s.w5100Reset.vnetScript = s.vnetScript := by unfold State.w5100Reset; simp
@[simp] theorem w5100Reset_vnetDraws : s.w5100Reset.vnetDraws = s.vnetDraws := by unfold State.w5100Reset; simp

theorem w5100Reset_sock (n : SockId) : s.w5100Reset.sock n = Sock.reset := by
  fin_cases n <;> rfl

/-- The calls a reset makes: the handles of sockets 0 to 3, then the flow's, are closed (70 R390 (a)). -/
theorem w5100Reset_envLog :
    s.w5100Reset.envLog =
      ((s.socks.handles ++ s.venv.handle.toList).filter (3 ≤ ·)).reverse.map EnvCall.close ++ s.envLog := by
  have hd : ∀ t : State, t.dropFlow.envLog =
      ((t.venv.handle.toList.filter (3 ≤ ·)).map EnvCall.close) ++ t.envLog := by
    intro t
    unfold State.dropFlow
    cases t.venv.handle with
    | none => simp
    | some h => by_cases h3 : 3 ≤ h <;> simp [State.hostClose, h3]
  have e0 : s.sock 0 = s.socks.s0 := rfl
  have e1 : s.sock 1 = s.socks.s1 := rfl
  have e2 : s.sock 2 = s.socks.s2 := rfl
  have e3 : s.sock 3 = s.socks.s3 := rfl
  have hr : ∀ o : Option Handle, (o.toList.filter (3 ≤ ·)).reverse = o.toList.filter (3 ≤ ·) := by
    intro o
    cases o with
    | none => rfl
    | some h => by_cases h3 : 3 ≤ h <;> simp [h3]
  unfold State.w5100Reset
  simp only [hd, envLog_release, sock_release]
  simp [e0, e1, e2, e3, Sockets.handles, List.filter_append, hr, List.append_assoc]

/-- The two cases of a mode write. -/
theorem writeMode_cases (v : Byte) :
    (v &&& 0x80 ≠ 0 ∧ s.writeMode v = s.w5100Reset.poke 0 (v &&& 0x7F))
      ∨ (v &&& 0x80 = 0 ∧ s.writeMode v = s.poke 0 v) := by
  unfold State.writeMode
  by_cases h : v &&& 0x80 = 0
  · refine .inr ⟨h, ?_⟩
    rw [if_neg (by simpa using h)]
    congr 1
    revert h; revert v; decide
  · exact .inl ⟨h, by rw [if_pos h]⟩

/-! ## The invariants -/

/-- The post-increment changes the pointer only. -/
theorem postIncrement_sound (h : s.Sound) : s.postIncrement.Sound := by
  unfold State.postIncrement
  split <;> exact h

theorem deliver_sound (b : Byte) (h : s.Sound) : (s.deliver b).Sound := h

theorem imageDefault_snCr (n : SockId) : imageDefault (snCr n) = 0 := by
  fin_cases n <;> decide

/-- A store that is no command register and not the mode byte keeps the invariants. -/
theorem poke_sound (a : Nat) (v : Byte) (h : s.Sound) (hl : a < 0x8000) (h0 : a = 0 → v &&& 0x80 = 0)
    (hc : ∀ n, a = snCr n → v = 0) : (s.poke a v).Sound := by
  obtain ⟨⟨hm, hr, hst⟩, ⟨hcr, hz⟩, hp, hsane, ho, hsl⟩ := h
  refine ⟨⟨Memory.wf_write _ _ _ _ _ hm hl, hr, fun n => by simpa using hst n⟩, ⟨fun n => ?_, ?_⟩, hp,
    fun n => by simpa using hsane n, handlesOwned_of_sub ho (by simp) (.inl (by simp)), hsl⟩
  · rw [peek_poke]
    split
    · next e => exact hc n e.symm
    · exact hcr n
  · rw [peek_poke]
    split
    · next e => exact h0 e.symm
    · exact hz

/-- The state after a reset is sound whatever it was before, but for the mouse card, which a reset does
not touch. -/
theorem w5100Reset_sound (h : s.Sound) : s.w5100Reset.Sound := by
  obtain ⟨⟨-, hr, -⟩, -, hp, -, -, hsl⟩ := h
  refine ⟨⟨rfl, by simpa using hr, fun n => by rw [w5100Reset_sock]; rfl⟩, ⟨fun n => ?_, ?_⟩, ?_, fun n => ?_, ?_,
    by unfold State.SlotsLegal at hsl ⊢; simpa using hsl⟩
  · show imageDefault (snCr n) = 0
    exact imageDefault_snCr n
  · show imageDefault 0 &&& 0x80 = 0
    decide
  · unfold State.ControlsMasked at hp ⊢; simpa using hp
  · rw [w5100Reset_sock]; exact ⟨by simp [Sock.reset], by simp [Sock.reset], by simp [Sock.reset], by simp [Sock.reset]⟩
  · have : s.w5100Reset.liveHandles = [] := rfl
    exact ⟨by rw [this]; exact List.nodup_nil, by rw [this]; simp⟩

theorem writeMode_sound (v : Byte) (h : s.Sound) : (s.writeMode v).Sound := by
  rcases writeMode_cases s v with ⟨-, e⟩ | ⟨h0, e⟩
  · rw [e]
    refine poke_sound _ 0 _ (w5100Reset_sound s h) (by decide) (fun _ => ?_) fun n e => ?_
    · rw [BitVec.and_assoc]; simp
    · unfold snCr sockBase at e; omega
  · rw [e]
    exact poke_sound _ 0 _ h (by decide) (fun _ => h0) fun n e => by unfold snCr sockBase at e; omega

theorem memRead_sound (a : Word16) (r : Byte × State) (h : s.Sound) (e : s.memRead a = .ok r) :
    r.2.Sound := by
  rcases memRead_cases s a r e with e | ⟨-, e⟩
  · rw [e]; exact h
  · rw [e]; exact (keeps_pagePoll s _ (h.2.2.2.1 _).1).sound h

theorem memWrite_sound (a : Word16) (v : Byte) (t : State) (h : s.Sound) (e : s.memWrite a v = .ok t) :
    t.Sound := by
  rcases memWrite_cases s a v t e with ⟨-, e⟩ | ⟨-, e⟩ | ⟨n, u, -, e, e'⟩ | ⟨hl, h0, hc, e⟩
  · rw [e]; exact h
  · rw [e]; exact writeMode_sound s v h
  · rw [e']
    refine poke_sound _ _ _ ((dispatchCommand_keeps s n v u e).sound h) ?_ ?_ fun _ _ => rfl
    · unfold snCr sockBase; omega
    · unfold snCr sockBase; omega
  · rw [e]
    exact poke_sound _ _ _ h hl (fun e => absurd e h0) fun n e => absurd e (hc n)

end Sys2Proof.Machine
end

