-- ==== Sys2Proof/Laws/Step.lean ====
section
/-! SUPPORT. The step: everything it can do, and what its post-increment does to the pointer. -/

namespace Sys2Proof.Machine

variable (s : State)

/-- Everything a step can do: nothing where no request is pending; otherwise a request is taken, and it
is refused, or its operation runs (log 1). -/
theorem step_cases :
    (s.pending = [] ∧ step s = .next s)
      ∨ ∃ r rest, s.pending = r :: rest
        ∧ ((∃ e, decode (s.cond r.socket) r = .error e ∧ step s = .refused (.badRequest e))
          ∨ ∃ i, decode (s.cond r.socket) r = .ok i ∧ step s = exec i (s.take r rest)) := by
  unfold step State.fetch
  cases hp : s.pending with
  | nil => exact .inl ⟨rfl, rfl⟩
  | cons r rest =>
    refine .inr ⟨r, rest, rfl, ?_⟩
    dsimp only
    cases hd : decode (s.cond r.socket) r with
    | error e => exact .inl ⟨e, rfl, rfl⟩
    | ok i => exact .inr ⟨i, rfl, rfl⟩

/-- The post-increment moves the pointer as `nextPtr` says, by the mode byte as it then is (40 R169). -/
theorem postIncrement_eq : s.postIncrement = { s with addrPtr := nextPtr (s.peek 0) s.addrPtr } := by
  unfold State.postIncrement nextPtr
  by_cases h : s.peek 0 &&& 0x02 = 0
  · rw [if_neg (not_not.mpr h), if_pos h]
  · rw [if_pos h, if_neg h]

end Sys2Proof.Machine
end

