-- ==== Sys2Proof/Laws/Dhcp.lean ====
section
/-! SUPPORT. The DHCP state under every operation (44 R320): which operations leave it, and that the others only move it forward while the virtual network layer is the responders of file 44. -/

namespace Sys2Proof.Machine

/-! ## Two relations -/

/-- From `s` to `t` neither the script of the `VNet` oracle nor the DHCP state has changed. -/
structure DhcpSame (s t : State) : Prop where
  script : t.vnetScript = s.vnetScript
  dhcp : t.venv.dhcpState = s.venv.dhcpState

/-- From `s` to `t` the DHCP state has only moved forward, to a state that is ever seen, and the virtual
layer is still the responders (44 R320). -/
structure DhcpForward (s t : State) : Prop where
  responders : t.responders
  rank : dhcpRank s.venv.dhcpState ≤ dhcpRank t.venv.dhcpState
  seen : t.venv.dhcpState ≠ s.venv.dhcpState → t.venv.dhcpState = .offerSent ∨ t.venv.dhcpState = .complete

theorem DhcpSame.refl (s : State) : DhcpSame s s := ⟨rfl, rfl⟩

theorem DhcpSame.trans {s t u : State} (h : DhcpSame s t) (k : DhcpSame t u) : DhcpSame s u :=
  ⟨k.script.trans h.script, k.dhcp.trans h.dhcp⟩

/-- Where nothing has changed of it, the environment state included, the DHCP state is the same. -/
theorem DhcpSame.of_eq {s t : State} (hq : t.vnetScript = s.vnetScript) (hv : t.venv = s.venv) : DhcpSame s t :=
  ⟨hq, by rw [hv]⟩

theorem DhcpSame.forward {s t : State} (h : DhcpSame s t) (hs : s.responders) : DhcpForward s t :=
  ⟨fun a ha => hs a (h.script ▸ ha), le_of_eq (by rw [h.dhcp]), fun e => absurd h.dhcp e⟩

theorem DhcpForward.trans {s t u : State} (h : DhcpForward s t) (k : DhcpForward t u) : DhcpForward s u := by
  refine ⟨k.responders, h.rank.trans k.rank, fun e => ?_⟩
  by_cases hu : u.venv.dhcpState = t.venv.dhcpState
  · rw [hu] at e ⊢; exact h.seen e
  · exact k.seen hu

variable (s : State)

/-! ## The DHCP responder -/

theorem storeLease_dhcpSame (g m i : Ip) : DhcpSame s (s.storeLease g m i) := .of_eq (by simp) (by simp)

/-- A DISCOVER moves the state from `IDLE` to `OFFER_SENT` or leaves it (44 R320). -/
theorem dhcpDiscover_forward (c : VNetChoices) (x : BitVec 32) (m : Mac) (hs : s.responders) :
    DhcpForward s (dhcpDiscover c x m s).2 := by
  unfold dhcpDiscover
  split
  · next e => exact ⟨hs, by rw [e]; exact Nat.zero_le _, fun _ => .inl rfl⟩
  all_goals exact DhcpSame.forward ⟨rfl, rfl⟩ hs

/-- A REQUEST moves the state from `OFFER_SENT` to `COMPLETE` or leaves it (44 R320). -/
theorem dhcpRequest_forward (c : VNetChoices) (x : BitVec 32) (m : Mac) (hs : s.responders) :
    DhcpForward s (dhcpRequest c x m s).2 := by
  have k : ∀ d, s.venv.dhcpState = d → dhcpRank d ≤ 4 →
      DhcpForward s ({ s with venv := { s.venv with dhcpState := .complete } }.storeLease vnGwIp vnMask vnClientIp) :=
    fun d e h => DhcpForward.trans (t := { s with venv := { s.venv with dhcpState := .complete } })
      ⟨hs, by rw [e]; exact h, fun _ => .inr rfl⟩ ((storeLease_dhcpSame _ _ _ _).forward hs)
  unfold dhcpRequest
  split
  case h_3 | h_4 | h_5 => exact (DhcpSame.refl s).forward hs
  all_goals
    next e =>
    split
    · exact k _ e (by decide)
    · exact (DhcpSame.refl s).forward hs

/-- Everything the DHCP responder does to the DHCP state. -/
theorem dhcpRespond_forward (c : VNetChoices) (f : Frame) (hs : s.responders) :
    DhcpForward s (dhcpRespond c f s).2 := by
  unfold dhcpRespond
  split
  · exact (DhcpSame.refl s).forward hs
  · split_ifs
    · exact dhcpDiscover_forward s c _ _ hs
    · exact dhcpRequest_forward s c _ _ hs
    · exact (DhcpSame.refl s).forward hs

/-! ## The TCP responder leaves it -/

variable (r : Resp) (c : VNetChoices)

theorem ask_dhcpSame (e : EnvCall) : DhcpSame s (s.ask e).2 := .of_eq (by simp) (by simp)

theorem hostClose_dhcpSame (h : Handle) : DhcpSame s (s.hostClose h) := .of_eq (by simp) (by simp)

theorem dropFlow_dhcpSame : DhcpSame s s.dropFlow :=
  ⟨by simp, by unfold State.dropFlow; dsimp only; split <;> simp⟩

section
variable {s r}

theorem DhcpSame.closeHandle (k : DhcpSame s r.s) : DhcpSame s r.closeHandle.s := by
  unfold Resp.closeHandle
  split
  · exact k.trans (hostClose_dhcpSame _ _)
  · exact k

theorem DhcpSame.finAck (k : DhcpSame s r.s) : DhcpSame s (r.finAck c).s :=
  DhcpSame.closeHandle (r := (r.emit c 0x11 [] 1).withFlow _) k

theorem DhcpSame.push (l : List (List Byte)) (k : DhcpSame s r.s) : DhcpSame s (r.push c l).s := by
  induction l generalizing r with
  | nil => exact k
  | cons p ps ih => exact ih (r := r.emit c 0x18 p p.length) k

theorem DhcpSame.wait (k : DhcpSame s r.s) : DhcpSame s (r.wait c).s := by
  unfold Resp.wait
  split
  · exact k
  · next h _ =>
    have k1 : DhcpSame s (Resp.mk r.out r.flow (r.s.ask (.vtcpWait h)).2).s := k.trans (ask_dhcpSame r.s _)
    have k2 := k1.push c ((r.s.ask (.vtcpWait h)).1.asArrived.1.flatMap chunks)
    dsimp only
    split
    · exact k2.finAck c
    · exact k2

theorem DhcpSame.data (p : List Byte) (k : DhcpSame s r.s) : DhcpSame s (r.data c p).s := by
  have hf : DhcpSame s (r.forward p).s := by
    unfold Resp.forward
    split
    · exact k.trans (.of_eq (by simp) (by simp))
    · exact k
  exact DhcpSame.wait (r := ((r.forward p).advance p.length).emit c 0x10 [] 0) c hf

theorem DhcpSame.fin (k : DhcpSame s r.s) : DhcpSame s (r.fin c).s := by
  unfold Resp.fin
  dsimp only
  refine DhcpSame.closeHandle (r := Resp.withFlow _ _) ?_
  split <;> exact k

theorem DhcpSame.done (k : DhcpSame s r.s) : DhcpSame s r.done.2 := k.trans ⟨rfl, rfl⟩

end

theorem tcpSyn_dhcpSame (g : Segment) : DhcpSame s (tcpSyn c g s).2 := by
  have k := (dropFlow_dhcpSame s).trans (ask_dhcpSame _ (.vtcpConnect g.dstPort))
  unfold tcpSyn
  dsimp only
  split
  · exact k
  · exact k.trans ⟨rfl, rfl⟩

theorem tcpOnFlow_dhcpSame (g : Segment) (v : VTcp) : DhcpSame s (tcpOnFlow c g v s).2 := by
  have k : DhcpSame s (Resp.mk [] (ackFlow v g) s).s := .refl s
  unfold tcpOnFlow
  dsimp only
  split_ifs
  · exact k.done
  · exact ((k.data c _).fin c).done
  · exact (k.fin c).done
  · exact (k.data c _).done
  · exact k.done

/-- The TCP responder does not touch the DHCP state. -/
theorem tcpRespond_dhcpSame (f : Frame) : DhcpSame s (tcpRespond c f s).2 := by
  unfold tcpRespond
  split
  · exact .refl s
  · split
    · exact .refl s
    · split
      · split
        · exact .refl s
        · exact tcpSyn_dhcpSame s c _
      · split
        · exact .refl s
        · split
          · exact tcpOnFlow_dhcpSame s c _ _
          · exact .refl s

/-- The poll of the virtual TCP flow does not touch the DHCP state. -/
theorem tcpPoll_dhcpSame : DhcpSame s (tcpPoll c s).2 := by
  unfold tcpPoll
  split
  · exact .refl s
  · next v _ =>
    split
    · exact .refl s
    · split
      · exact .refl s
      · have k := ask_dhcpSame s (.vtcpRead ‹_›)
        dsimp only
        split
        · exact (k.finAck c).done
        · exact (k.push c _).done
        · exact k

/-! ## The entry points -/

/-- A draw of the `VNet` oracle from a script of responders: a responder answers (44 R310). -/
theorem nextVNet_responders (hs : s.responders) :
    (∃ c, s.nextVNet.1 = .responder c) ∧ DhcpForward s s.nextVNet.2 := by
  unfold State.nextVNet
  cases h : s.vnetScript with
  | nil => exact ⟨⟨_, rfl⟩, DhcpSame.forward ⟨h.symm, rfl⟩ hs⟩
  | cons a l =>
    refine ⟨hs a (by simp [h]), fun b hb => hs b ?_, le_refl _, fun e => absurd rfl e⟩
    rw [h]; exact List.mem_cons_of_mem _ hb

/-- Everything `VNet.frame` does to the DHCP state (44 R320). -/
theorem vnetFrame_forward (f : Frame) (hs : s.responders) : DhcpForward s (s.vnetFrame f).2 := by
  obtain ⟨⟨c, hc⟩, k⟩ := nextVNet_responders (s.logCall (.vnetFrame f)) hs
  have k0 : DhcpForward s (s.logCall (.vnetFrame f)).nextVNet.2 :=
    ⟨k.responders, k.rank, k.seen⟩
  unfold State.vnetFrame
  dsimp only
  rw [hc]
  refine k0.trans ?_
  show DhcpForward _ (respond c f _).2
  unfold respond
  split_ifs
  · exact (DhcpSame.refl _).forward k.responders
  · exact (DhcpSame.refl _).forward k.responders
  · exact dhcpRespond_forward _ c f k.responders
  · exact (tcpRespond_dhcpSame _ c f).forward k.responders
  · exact (DhcpSame.refl _).forward k.responders

/-- Everything `VNet.poll` does to the DHCP state: nothing. -/
theorem vnetPoll_forward (hs : s.responders) : DhcpForward s s.vnetPoll.2 := by
  obtain ⟨⟨c, hc⟩, k⟩ := nextVNet_responders (s.logCall .vnetPoll) hs
  have k0 : DhcpForward s (s.logCall .vnetPoll).nextVNet.2 := ⟨k.responders, k.rank, k.seen⟩
  unfold State.vnetPoll
  dsimp only
  rw [hc]
  exact k0.trans ((tcpPoll_dhcpSame _ c).forward k.responders)

/-! ## Commands, polls, bus paths -/

theorem rxInjectAll_dhcpSame (n : SockId) (l : List Frame) : DhcpSame s (s.rxInjectAll n l) :=
  .of_eq (by simp) (by simp)

theorem sendMacraw_forward (n : SockId) (hs : s.responders) : DhcpForward s (s.sendMacraw n) := by
  have k : DhcpSame s (s.put16 (snTxRd n) (s.get16 (snTxWr n))) := .of_eq (by simp) (by simp)
  unfold State.sendMacraw
  split
  · exact (DhcpSame.refl s).forward hs
  · dsimp only
    split
    · exact k.forward hs
    · have kf := vnetFrame_forward _ (s.txData n) (k.forward hs).responders
      exact ((k.forward hs).trans kf).trans ((rxInjectAll_dhcpSame _ n _).forward kf.responders)

theorem openHost_dhcpSame (n : SockId) (call : EnvCall) (v : Byte) : DhcpSame s (s.openHost n call v) := by
  unfold State.openHost
  dsimp only
  split <;> exact .of_eq (by simp) (by simp)

theorem openMacraw_dhcpSame : DhcpSame s s.openMacraw := by
  unfold State.openMacraw
  exact .of_eq (by simp) (by simp)

theorem listen_dhcpSame (n : SockId) : DhcpSame s (s.listen n) := by
  unfold State.listen
  dsimp only
  split_ifs
  · exact .refl s
  · cases (s.sock n).handle <;> exact .of_eq (by simp) (by simp)
  · cases (s.sock n).handle <;> exact .of_eq (by simp) (by simp)
  · cases (s.sock n).handle <;> exact .of_eq (by simp) (by simp)

theorem connect_dhcpSame (n : SockId) : DhcpSame s (s.connect n) := by
  unfold State.connect
  dsimp only
  split
  · exact .refl s
  · split
    · exact .of_eq (by simp) (by simp)
    · split <;> exact .of_eq (by simp) (by simp)

theorem closeSocket_dhcpSame (n : SockId) : DhcpSame s (s.closeSocket n) := by
  unfold State.closeSocket
  exact .of_eq (by simp) (by simp)

theorem sendTcp_dhcpSame (n : SockId) : DhcpSame s (s.sendTcp n) := by
  unfold State.sendTcp
  dsimp only
  split
  · exact .refl s
  · split
    · exact .of_eq (by simp) (by simp)
    · split <;> exact .of_eq (by simp) (by simp)

theorem recv_dhcpSame (n : SockId) (t : State) (h : s.recv n = .ok t) : DhcpSame s t := by
  unfold State.recv at h
  split at h
  · cases h
  · split at h
    · cases h
    · dsimp only at h
      generalize (if (s.sock n).macraw = true then _ else _ : Nat) = d at h
      split at h <;> cases h
      · exact .of_eq (by simp) (by simp)
      · exact .of_eq (by simp) (by simp)

/-- Everything a command that is not refused does to the DHCP state. -/
theorem dispatchCommand_forward (n : SockId) (v : Byte) (t : State) (h : s.dispatchCommand n v = .ok t)
    (hs : s.responders) : DhcpForward s t := by
  unfold State.dispatchCommand at h
  split_ifs at h
  · split at h <;> cases h
    · exact (openHost_dhcpSame s n _ _).forward hs
    · exact (openHost_dhcpSame s n _ _).forward hs
    · exact (openMacraw_dhcpSame s).forward hs
    · exact (DhcpSame.refl s).forward hs
  · cases h; exact (listen_dhcpSame s n).forward hs
  · cases h; exact (connect_dhcpSame s n).forward hs
  · cases h; exact (closeSocket_dhcpSame s n).forward hs
  · cases h; exact (closeSocket_dhcpSame s n).forward hs
  · cases h; exact sendMacraw_forward s n hs
  · cases h; exact (sendTcp_dhcpSame s n).forward hs
  · exact (recv_dhcpSame s n t h).forward hs
  · cases h; exact (DhcpSame.refl s).forward hs

theorem socketPoll_dhcpSame (n : SockId) : DhcpSame s (s.socketPoll n) := by
  have hc : ∀ t : State, DhcpSame t (t.pollConnect n) := by
    intro t
    unfold State.pollConnect
    dsimp only
    split
    · exact .refl t
    · split_ifs <;> exact .of_eq (by simp) (by simp)
  have hr : ∀ t : State, DhcpSame t (t.pollReceive n) := by
    intro t
    unfold State.pollReceive State.peerClosed
    dsimp only
    split
    · exact .refl t
    · split_ifs
      all_goals try exact .of_eq (by simp) (by simp)
      split <;> exact .of_eq (by simp) (by simp)
  have ha : ∀ t : State, DhcpSame t (t.pollAccept n) := by
    intro t
    unfold State.pollAccept
    dsimp only
    split
    · exact .refl t
    · split_ifs
      all_goals try exact .of_eq (by simp) (by simp)
      split <;> exact .of_eq (by simp) (by simp)
  exact ((hc s).trans (hr _)).trans (ha _)

theorem virtualTcpPoll_forward (hs : s.responders) : DhcpForward s s.virtualTcpPoll :=
  (vnetPoll_forward s hs).trans ((rxInjectAll_dhcpSame _ 0 _).forward (vnetPoll_forward s hs).responders)

/-- Everything a read of a socket's page does to the DHCP state. -/
theorem pagePoll_forward (n : SockId) (hs : s.responders) : DhcpForward s (s.pagePoll n) := by
  have k := (socketPoll_dhcpSame s n).forward hs
  unfold State.pagePoll
  dsimp only
  split
  · exact k.trans (virtualTcpPoll_forward _ k.responders)
  · exact k

/-- Everything a read of the bus-read path does to the DHCP state. -/
theorem memRead_forward (a : Word16) (x : Byte × State) (h : s.memRead a = .ok x) (hs : s.responders) :
    DhcpForward s x.2 := by
  rcases memRead_cases s a x h with e | ⟨-, e⟩
  · rw [e]; exact (DhcpSame.refl s).forward hs
  · rw [e]; exact pagePoll_forward s _ hs

/-- A mode write that is no reset does not touch the DHCP state. -/
theorem writeMode_dhcpSame (v : Byte) (h : (s.writeMode v).resets = s.resets) : DhcpSame s (s.writeMode v) := by
  rcases writeMode_cases s v with ⟨-, e⟩ | ⟨-, e⟩
  · rw [e] at h; simp at h
  · rw [e]; exact .of_eq (by simp) (by simp)

/-- Everything a write of the bus-write path that is no reset does to the DHCP state. -/
theorem memWrite_forward (a : Word16) (v : Byte) (t : State) (h : s.memWrite a v = .ok t)
    (hr : t.resets = s.resets) (hs : s.responders) : DhcpForward s t := by
  rcases memWrite_cases s a v t h with ⟨-, e⟩ | ⟨-, e⟩ | ⟨n, u, -, e, e'⟩ | ⟨-, -, -, e⟩
  · rw [e]; exact (DhcpSame.refl s).forward hs
  · rw [e] at hr ⊢; exact (writeMode_dhcpSame s v hr).forward hs
  · have k := dispatchCommand_forward s n v u e hs
    rw [e']
    exact k.trans (DhcpSame.forward (.of_eq (by simp) (by simp)) k.responders)
  · rw [e]; exact DhcpSame.forward (.of_eq (by simp) (by simp)) hs

end Sys2Proof.Machine
end

