-- ==== Sys2Proof/Laws/Draws.lean ====
section
/-! SUPPORT. The draws of the Host oracle: which answer an operation sees, and what a draw leaves. -/

namespace Sys2Proof.Machine

variable (s : State)

/-- The answers to come depend on the script and the count alone. -/
theorem answerAt_congr {s t : State} (h : t.hostScript = s.hostScript) (hd : t.hostDraws = s.hostDraws) (k : Nat) :
    t.answerAt k = s.answerAt k := by
  unfold State.answerAt; rw [h, hd]

@[simp] theorem logCall_answerAt (c : EnvCall) (k : Nat) : (s.logCall c).answerAt k = s.answerAt k := rfl
@[simp] theorem setSock_answerAt (n : SockId) (x : Sock) (k : Nat) : (s.setSock n x).answerAt k = s.answerAt k := rfl
@[simp] theorem poke_answerAt (a : Nat) (v : Byte) (k : Nat) : (s.poke a v).answerAt k = s.answerAt k := rfl
@[simp] theorem release_answerAt (n : SockId) (k : Nat) : (s.release n).answerAt k = s.answerAt k :=
  answerAt_congr (by simp) (by simp) k
@[simp] theorem dropFlow_answerAt (k : Nat) : s.dropFlow.answerAt k = s.answerAt k :=
  answerAt_congr (by simp) (by simp) k
@[simp] theorem hostClose_answerAt (h : Handle) (k : Nat) : (s.hostClose h).answerAt k = s.answerAt k :=
  answerAt_congr (by simp) (by simp) k

/-- A draw gives the next answer (42 R260). -/
@[simp] theorem nextAnswer_fst : s.nextAnswer.1 = s.answerAt 0 := by
  unfold State.nextAnswer State.answerAt
  cases s.hostScript <;> rfl

@[simp] theorem ask_fst (c : EnvCall) : (s.ask c).1 = s.answerAt 0 := nextAnswer_fst (s.logCall c)

/-- The answers after a draw are the later ones. -/
@[simp] theorem nextAnswer_answerAt (k : Nat) : s.nextAnswer.2.answerAt k = s.answerAt (k + 1) := by
  unfold State.nextAnswer State.answerAt
  cases s.hostScript with
  | nil => simp; ring_nf
  | cons a l =>
    simp only [List.getElem?_cons_succ]
    ring_nf

@[simp] theorem ask_answerAt (c : EnvCall) (k : Nat) : (s.ask c).2.answerAt k = s.answerAt (k + 1) :=
  nextAnswer_answerAt (s.logCall c) k

/-- A draw takes one answer. -/
theorem nextAnswer_script : s.nextAnswer.2.hostScript = s.hostScript.drop 1
    ∧ s.nextAnswer.2.hostDraws = s.hostDraws + 1 := by
  unfold State.nextAnswer
  cases s.hostScript <;> simp

@[simp] theorem nextAnswer_hostScript : s.nextAnswer.2.hostScript = s.hostScript.drop 1 := (nextAnswer_script s).1

@[simp] theorem ask_hostScript (c : EnvCall) : (s.ask c).2.hostScript = s.hostScript.drop 1 :=
  nextAnswer_hostScript (s.logCall c)

@[simp] theorem drawn_refl : s.drawn s 0 := ⟨rfl, by simp, rfl, rfl⟩

/-- Draws add up. -/
theorem State.drawn_trans {s t u : State} {j k : Nat} (h : s.drawn t j) (h' : t.drawn u k) : s.drawn u (j + k) := by
  obtain ⟨a, b, c, d⟩ := h
  obtain ⟨a', b', c', d'⟩ := h'
  exact ⟨by rw [a', a]; ring, by rw [b', b, List.drop_drop], c'.trans c, d'.trans d⟩

theorem drawn_nextAnswer : s.drawn s.nextAnswer.2 1 :=
  ⟨(nextAnswer_script s).2, (nextAnswer_script s).1, by simp, by simp⟩

theorem drawn_ask (c : EnvCall) : s.drawn (s.ask c).2 1 := drawn_nextAnswer (s.logCall c)

end Sys2Proof.Machine
end

