-- ==== Sys2Proof/Laws/PerInstr.lean ====
section
/-! SUPPORT. One lemma per operation: the request that an operation encodes to lies in the operation's row of the opcode table. -/

namespace Sys2Proof.Laws

/-- A row of the opcode table: the format of its encoding, its mask and its match. -/
inductive Row where
  /-- Format BUS: over the access word of 30 R122, here in three whole bytes. -/
  | bus (mask mat : BitVec 24)
  /-- Format IADDR: over the image address of a read or a write (30 R132, R133). -/
  | image (isWrite : Bool) (mask mat : BitVec 16)
  /-- Format CMD: over the command byte (30 R142). -/
  | command (mask mat : Byte)
  /-- Format INTERNAL: a poll. -/
  | internal
  /-- Format CALL: a call of the emulator. -/
  | call

/-- The row of an operation: mask and match as spec/opcode_table.json has them. -/
def tableRow : Instr → Row
  | .u2RdRom _ => .bus 0xF00FF 0x40000
  | .u2WrRom _ _ => .bus 0xF0000 0x60000
  | .u2RdMode => .bus 0xFFFFF 0x00400
  | .u2WrMode _ => .bus 0xFFF00 0x20400
  | .u2RdArh => .bus 0xFFFFF 0x00500
  | .u2WrArh _ => .bus 0xFFF00 0x20500
  | .u2RdArl => .bus 0xFFFFF 0x00600
  | .u2WrArl _ => .bus 0xFFF00 0x20600
  | .u2RdData => .bus 0xFFFFF 0x00700
  | .u2WrData _ => .bus 0xFFF00 0x20700
  | .u2RdUnassignedLow _ => .bus 0xFFCFF 0x00000
  | .u2RdUnassignedHigh _ => .bus 0xFF8FF 0x00800
  | .u2WrUnassignedLow _ _ => .bus 0xFFC00 0x20000
  | .u2WrUnassignedHigh _ _ => .bus 0xFF800 0x20800
  | .imgRdInvalid _ => .image false 0x8000 0x8000
  | .imgRdTxFsr _ _ => .image false 0xFCFE 0x0420
  | .imgRdRxRsr _ _ => .image false 0xFCFE 0x0426
  | .imgRdSockreg _ _ => .image false 0xFC00 0x0400
  | .imgRdRxwin _ _ => .image false 0xE000 0x6000
  | .imgRdPlain _ => .image false 0x0000 0x0000
  | .imgWrInvalid _ _ => .image true 0x8000 0x8000
  | .imgWrMode _ => .image true 0xFFFF 0x0000
  | .imgWrSnCr _ _ => .image true 0xFCFF 0x0401
  | .imgWrPlain _ _ => .image true 0x0000 0x0000
  | .cmdOpenTcp _ => .command 0xFF 0x01
  | .cmdOpenUdp _ => .command 0xFF 0x01
  | .cmdOpenMacraw => .command 0xFF 0x01
  | .cmdOpenOther _ => .command 0xFF 0x01
  | .cmdListen _ => .command 0xFF 0x02
  | .cmdConnect _ => .command 0xFF 0x04
  | .cmdDiscon _ => .command 0xFF 0x08
  | .cmdClose _ => .command 0xFF 0x10
  | .cmdSendMacraw _ => .command 0xFF 0x20
  | .cmdSendTcp _ => .command 0xFF 0x20
  | .cmdRecv _ => .command 0xFF 0x40
  | .cmdUnlisted _ _ => .command 0x00 0x00
  | .pollSocket _ => .internal
  | .pollVtcp => .internal
  | .piaRdRom _ => .bus 0xF00FF 0xC0000
  | .piaWrRom _ _ => .bus 0xF0000 0xE0000
  | .piaRdOra => .bus 0xFFFFF 0x80000
  | .piaWrOra _ => .bus 0xFFF00 0xA0000
  | .piaRdDdra => .bus 0xFFFFF 0x80000
  | .piaWrDdra _ => .bus 0xFFF00 0xA0000
  | .piaRdCra => .bus 0xFFFFF 0x80100
  | .piaWrCra _ => .bus 0xFFF00 0xA0100
  | .piaRdOrb => .bus 0xFFFFF 0x80200
  | .piaWrOrb _ => .bus 0xFFF00 0xA0200
  | .piaRdDdrb => .bus 0xFFFFF 0x80200
  | .piaWrDdrb _ => .bus 0xFFF00 0xA0200
  | .piaRdCrb => .bus 0xFFFFF 0x80300
  | .piaWrCrb _ => .bus 0xFFF00 0xA0300
  | .piaRdUnassignedLow _ => .bus 0xFFCFF 0x80400
  | .piaRdUnassignedHigh _ => .bus 0xFF8FF 0x80800
  | .piaWrUnassignedLow _ _ => .bus 0xFFC00 0xA0400
  | .piaWrUnassignedHigh _ _ => .bus 0xFF800 0xA0800
  | .u2SetSlot _ => .call
  | .mouseSetSlot _ => .call
  | .mouseSetPosition _ _ => .call
  | .mouseSetButton _ => .call
  | .mouseGetState => .call

/-- A request lies in a row: its format is the row's and its bits match under the row's mask. -/
def Row.admits : Row → Request → Prop
  | .bus mask mat, .bus w => w &&& mask = mat
  | .image false mask mat, .imageRead a => a &&& mask = mat
  | .image true mask mat, .imageWrite a _ => a &&& mask = mat
  | .command mask mat, .command _ b => b &&& mask = mat
  | .internal, .pollSocket _ => True
  | .internal, .pollVtcp => True
  | .call, .callU2SetSlot _ => True
  | .call, .callMouseSetSlot _ => True
  | .call, .callSetPosition _ _ => True
  | .call, .callSetButton _ => True
  | .call, .callGetState => True
  | .bus _ _, _ | .image _ _ _, _ | .command _ _, _ | .internal, _ | .call, _ => False

/-- A well-formed operation, encoded with the default register-select order, lies in its row of the
opcode table. -/
def TableRow.Statement (i : Instr) : Prop :=
  WellFormed i = true → (tableRow i).admits (encode PiaMap.default i)

/-! ## Masks over encoded requests -/

/-- A row of format BUS admits an access word whose three bytes match under the three bytes of the mask.
-/
theorem admits_busWord {c s r : Bool} {off val : Byte} {mask mat : BitVec 24} (mh mo mv xh xo xv : BitVec 8)
    (hh : BitVec.ofNat 8 (c.toNat * 8 + s.toNat * 4 + r.toNat * 2) &&& mh = xh) (ho : off &&& mo = xo)
    (hv : val &&& mv = xv) (hm : mask = ((mh ++ mo : BitVec 16) ++ mv))
    (hx : mat = ((xh ++ xo : BitVec 16) ++ xv)) : (Row.bus mask mat).admits (busWord c s r off val) := by
  subst hm hx hh ho hv
  exact packAccess_and ⟨c, s, r, off, val⟩ mh mo mv

/-- An image address of 0x8000 or more has bit 15 set. -/
theorem highAddr_and (a : BitVec 15) : BitVec.ofNat 16 (a.toNat + 0x8000) &&& 0x8000 = (0x8000 : BitVec 16) := by
  have ha := a.isLt
  have e : BitVec.ofNat 16 (a.toNat + 0x8000) = (1#1 ++ a : BitVec 16) := by
    apply BitVec.eq_of_toNat_eq
    rw [BitVec.toNat_append, ← Nat.shiftLeft_add_eq_or_of_lt ha, BitVec.toNat_ofNat]
    show _ = 1 <<< 15 + a.toNat
    rw [Nat.shiftLeft_eq]
    omega
  rw [e]
  exact (append_and_append 1#1 1#1 a 0#15).trans (by rw [BitVec.and_zero]; decide)

/-- Offset `o` of socket `n`'s page is the byte 4 + n and the byte `o`. -/
theorem pageAddr_append (n : SockId) (o : Byte) : pageAddr n o = (BitVec.ofNat 8 (4 + n.val) ++ o : BitVec 16) := by
  have ho := o.isLt
  have hn := n.isLt
  apply BitVec.eq_of_toNat_eq
  rw [pageAddr_toNat, BitVec.toNat_append, ← Nat.shiftLeft_add_eq_or_of_lt ho, Nat.shiftLeft_eq,
    BitVec.toNat_ofNat]
  omega

/-- A socket page is one KiB of the image (30 R132). -/
theorem pageAddr_and (n : SockId) (o : Byte) : pageAddr n o &&& 0xFC00 = (0x0400 : BitVec 16) := by
  rw [pageAddr_append]
  refine (append_and_append _ 0xFC#8 o 0#8).trans ?_
  rw [BitVec.and_zero]
  fin_cases n <;> decide

/-- The command registers (30 R133). -/
theorem pageAddr_command (n : SockId) : pageAddr n 1 &&& 0xFCFF = (0x0401 : BitVec 16) := by
  revert n
  decide

/-- The RX windows are eight KiB of the image (30 R132). -/
theorem windowAddr_and (n : SockId) (i : BitVec 11) :
    BitVec.ofNat 16 (0x6000 + n.val * 0x800 + i.toNat) &&& 0xE000 = (0x6000 : BitVec 16) := by
  have hi := i.isLt
  have hn := n.isLt
  have e : BitVec.ofNat 16 (0x6000 + n.val * 0x800 + i.toNat) = (BitVec.ofNat 5 (12 + n.val) ++ i : BitVec 16) := by
    apply BitVec.eq_of_toNat_eq
    rw [BitVec.toNat_append, ← Nat.shiftLeft_add_eq_or_of_lt hi, Nat.shiftLeft_eq, BitVec.toNat_ofNat,
      BitVec.toNat_ofNat]
    omega
  rw [e]
  refine (append_and_append _ 0x1C#5 i 0#11).trans ?_
  rw [BitVec.and_zero]
  fin_cases n <;> decide

/-! ## One lemma per operation -/

theorem TableRow.u2RdRom (ploc : Byte) : TableRow.Statement (.u2RdRom ploc) := fun _ =>
  admits_busWord 0x0F 0x00 0xFF 0x04 0x00 0x00 (by decide) BitVec.and_zero (by decide) (by decide) (by decide)

theorem TableRow.u2WrRom (ploc val : Byte) : TableRow.Statement (.u2WrRom ploc val) := fun _ =>
  admits_busWord 0x0F 0x00 0x00 0x06 0x00 0x00 (by decide) BitVec.and_zero BitVec.and_zero (by decide) (by decide)

theorem TableRow.u2RdMode : TableRow.Statement .u2RdMode := fun _ =>
  admits_busWord 0x0F 0xFF 0xFF 0x00 0x04 0x00 (by decide) (by decide) (by decide) (by decide) (by decide)

theorem TableRow.u2WrMode (val : Byte) : TableRow.Statement (.u2WrMode val) := fun _ =>
  admits_busWord 0x0F 0xFF 0x00 0x02 0x04 0x00 (by decide) (by decide) BitVec.and_zero (by decide) (by decide)

theorem TableRow.u2RdArh : TableRow.Statement .u2RdArh := fun _ =>
  admits_busWord 0x0F 0xFF 0xFF 0x00 0x05 0x00 (by decide) (by decide) (by decide) (by decide) (by decide)

theorem TableRow.u2WrArh (val : Byte) : TableRow.Statement (.u2WrArh val) := fun _ =>
  admits_busWord 0x0F 0xFF 0x00 0x02 0x05 0x00 (by decide) (by decide) BitVec.and_zero (by decide) (by decide)

theorem TableRow.u2RdArl : TableRow.Statement .u2RdArl := fun _ =>
  admits_busWord 0x0F 0xFF 0xFF 0x00 0x06 0x00 (by decide) (by decide) (by decide) (by decide) (by decide)

theorem TableRow.u2WrArl (val : Byte) : TableRow.Statement (.u2WrArl val) := fun _ =>
  admits_busWord 0x0F 0xFF 0x00 0x02 0x06 0x00 (by decide) (by decide) BitVec.and_zero (by decide) (by decide)

theorem TableRow.u2RdData : TableRow.Statement .u2RdData := fun _ =>
  admits_busWord 0x0F 0xFF 0xFF 0x00 0x07 0x00 (by decide) (by decide) (by decide) (by decide) (by decide)

theorem TableRow.u2WrData (val : Byte) : TableRow.Statement (.u2WrData val) := fun _ =>
  admits_busWord 0x0F 0xFF 0x00 0x02 0x07 0x00 (by decide) (by decide) BitVec.and_zero (by decide) (by decide)

theorem TableRow.u2RdUnassignedLow (psw : BitVec 2) : TableRow.Statement (.u2RdUnassignedLow psw) := fun _ =>
  admits_busWord 0x0F 0xFC 0xFF 0x00 0x00 0x00 (by decide) (by clear * -; revert psw; decide) (by decide) (by decide) (by decide)

theorem TableRow.u2RdUnassignedHigh (psw : BitVec 3) : TableRow.Statement (.u2RdUnassignedHigh psw) := fun _ =>
  admits_busWord 0x0F 0xF8 0xFF 0x00 0x08 0x00 (by decide) (by clear * -; revert psw; decide) (by decide) (by decide) (by decide)

theorem TableRow.u2WrUnassignedLow (psw : BitVec 2) (val : Byte) : TableRow.Statement (.u2WrUnassignedLow psw val) := fun _ =>
  admits_busWord 0x0F 0xFC 0x00 0x02 0x00 0x00 (by decide) (by clear * -; revert psw; decide) BitVec.and_zero (by decide) (by decide)

theorem TableRow.u2WrUnassignedHigh (psw : BitVec 3) (val : Byte) : TableRow.Statement (.u2WrUnassignedHigh psw val) := fun _ =>
  admits_busWord 0x0F 0xF8 0x00 0x02 0x08 0x00 (by decide) (by clear * -; revert psw; decide) BitVec.and_zero (by decide) (by decide)

theorem TableRow.imgRdInvalid (a : BitVec 15) : TableRow.Statement (.imgRdInvalid a) := fun _ => highAddr_and a

theorem TableRow.imgRdTxFsr (n : SockId) (low : Bool) : TableRow.Statement (.imgRdTxFsr n low) := fun _ => by
  show pageAddr n (if low then 0x21 else 0x20) &&& 0xFCFE = 0x0420
  revert n low
  decide

theorem TableRow.imgRdRxRsr (n : SockId) (low : Bool) : TableRow.Statement (.imgRdRxRsr n low) := fun _ => by
  show pageAddr n (if low then 0x27 else 0x26) &&& 0xFCFE = 0x0426
  revert n low
  decide

theorem TableRow.imgRdSockreg (n : SockId) (o : Byte) : TableRow.Statement (.imgRdSockreg n o) := fun _ => pageAddr_and n o

theorem TableRow.imgRdRxwin (n : SockId) (i : BitVec 11) : TableRow.Statement (.imgRdRxwin n i) := fun _ => windowAddr_and n i

theorem TableRow.imgRdPlain (a : BitVec 15) : TableRow.Statement (.imgRdPlain a) := fun _ => BitVec.and_zero

theorem TableRow.imgWrInvalid (a : BitVec 15) (v : Byte) : TableRow.Statement (.imgWrInvalid a v) := fun _ => highAddr_and a

theorem TableRow.imgWrMode (v : Byte) : TableRow.Statement (.imgWrMode v) := fun _ => (by decide : (0 : BitVec 16) &&& 0xFFFF = 0)

theorem TableRow.imgWrSnCr (n : SockId) (v : Byte) : TableRow.Statement (.imgWrSnCr n v) := fun _ => pageAddr_command n

theorem TableRow.imgWrPlain (a : BitVec 15) (v : Byte) : TableRow.Statement (.imgWrPlain a v) := fun _ => BitVec.and_zero

theorem TableRow.cmdOpenTcp (n : SockId) : TableRow.Statement (.cmdOpenTcp n) := fun _ => (by decide : (0x01 : Byte) &&& 0xFF = 0x01)

theorem TableRow.cmdOpenUdp (n : SockId) : TableRow.Statement (.cmdOpenUdp n) := fun _ => (by decide : (0x01 : Byte) &&& 0xFF = 0x01)

theorem TableRow.cmdOpenMacraw : TableRow.Statement .cmdOpenMacraw := fun _ => (by decide : (0x01 : Byte) &&& 0xFF = 0x01)

theorem TableRow.cmdOpenOther (n : SockId) : TableRow.Statement (.cmdOpenOther n) := fun _ => (by decide : (0x01 : Byte) &&& 0xFF = 0x01)

theorem TableRow.cmdListen (n : SockId) : TableRow.Statement (.cmdListen n) := fun _ => (by decide : (0x02 : Byte) &&& 0xFF = 0x02)

theorem TableRow.cmdConnect (n : SockId) : TableRow.Statement (.cmdConnect n) := fun _ => (by decide : (0x04 : Byte) &&& 0xFF = 0x04)

theorem TableRow.cmdDiscon (n : SockId) : TableRow.Statement (.cmdDiscon n) := fun _ => (by decide : (0x08 : Byte) &&& 0xFF = 0x08)

theorem TableRow.cmdClose (n : SockId) : TableRow.Statement (.cmdClose n) := fun _ => (by decide : (0x10 : Byte) &&& 0xFF = 0x10)

theorem TableRow.cmdSendMacraw (n : SockId) : TableRow.Statement (.cmdSendMacraw n) := fun _ => (by decide : (0x20 : Byte) &&& 0xFF = 0x20)

theorem TableRow.cmdSendTcp (n : SockId) : TableRow.Statement (.cmdSendTcp n) := fun _ => (by decide : (0x20 : Byte) &&& 0xFF = 0x20)

theorem TableRow.cmdRecv (n : SockId) : TableRow.Statement (.cmdRecv n) := fun _ => (by decide : (0x40 : Byte) &&& 0xFF = 0x40)

theorem TableRow.cmdUnlisted (n : SockId) (c : Byte) : TableRow.Statement (.cmdUnlisted n c) := fun _ => BitVec.and_zero

theorem TableRow.pollSocket (n : SockId) : TableRow.Statement (.pollSocket n) := fun _ => trivial

theorem TableRow.pollVtcp : TableRow.Statement .pollVtcp := fun _ => trivial

theorem TableRow.piaRdRom (ploc : Byte) : TableRow.Statement (.piaRdRom ploc) := fun _ =>
  admits_busWord 0x0F 0x00 0xFF 0x0C 0x00 0x00 (by decide) BitVec.and_zero (by decide) (by decide) (by decide)

theorem TableRow.piaWrRom (ploc val : Byte) : TableRow.Statement (.piaWrRom ploc val) := fun _ =>
  admits_busWord 0x0F 0x00 0x00 0x0E 0x00 0x00 (by decide) BitVec.and_zero BitVec.and_zero (by decide) (by decide)

theorem TableRow.piaRdOra : TableRow.Statement .piaRdOra := fun _ =>
  admits_busWord 0x0F 0xFF 0xFF 0x08 0x00 0x00 (by decide) (by decide) (by decide) (by decide) (by decide)

theorem TableRow.piaWrOra (val : Byte) : TableRow.Statement (.piaWrOra val) := fun _ =>
  admits_busWord 0x0F 0xFF 0x00 0x0A 0x00 0x00 (by decide) (by decide) BitVec.and_zero (by decide) (by decide)

theorem TableRow.piaRdDdra : TableRow.Statement .piaRdDdra := fun _ =>
  admits_busWord 0x0F 0xFF 0xFF 0x08 0x00 0x00 (by decide) (by decide) (by decide) (by decide) (by decide)

theorem TableRow.piaWrDdra (val : Byte) : TableRow.Statement (.piaWrDdra val) := fun _ =>
  admits_busWord 0x0F 0xFF 0x00 0x0A 0x00 0x00 (by decide) (by decide) BitVec.and_zero (by decide) (by decide)

theorem TableRow.piaRdCra : TableRow.Statement .piaRdCra := fun _ =>
  admits_busWord 0x0F 0xFF 0xFF 0x08 0x01 0x00 (by decide) (by decide) (by decide) (by decide) (by decide)

theorem TableRow.piaWrCra (val : Byte) : TableRow.Statement (.piaWrCra val) := fun _ =>
  admits_busWord 0x0F 0xFF 0x00 0x0A 0x01 0x00 (by decide) (by decide) BitVec.and_zero (by decide) (by decide)

theorem TableRow.piaRdOrb : TableRow.Statement .piaRdOrb := fun _ =>
  admits_busWord 0x0F 0xFF 0xFF 0x08 0x02 0x00 (by decide) (by decide) (by decide) (by decide) (by decide)

theorem TableRow.piaWrOrb (val : Byte) : TableRow.Statement (.piaWrOrb val) := fun _ =>
  admits_busWord 0x0F 0xFF 0x00 0x0A 0x02 0x00 (by decide) (by decide) BitVec.and_zero (by decide) (by decide)

theorem TableRow.piaRdDdrb : TableRow.Statement .piaRdDdrb := fun _ =>
  admits_busWord 0x0F 0xFF 0xFF 0x08 0x02 0x00 (by decide) (by decide) (by decide) (by decide) (by decide)

theorem TableRow.piaWrDdrb (val : Byte) : TableRow.Statement (.piaWrDdrb val) := fun _ =>
  admits_busWord 0x0F 0xFF 0x00 0x0A 0x02 0x00 (by decide) (by decide) BitVec.and_zero (by decide) (by decide)

theorem TableRow.piaRdCrb : TableRow.Statement .piaRdCrb := fun _ =>
  admits_busWord 0x0F 0xFF 0xFF 0x08 0x03 0x00 (by decide) (by decide) (by decide) (by decide) (by decide)

theorem TableRow.piaWrCrb (val : Byte) : TableRow.Statement (.piaWrCrb val) := fun _ =>
  admits_busWord 0x0F 0xFF 0x00 0x0A 0x03 0x00 (by decide) (by decide) BitVec.and_zero (by decide) (by decide)

theorem TableRow.piaRdUnassignedLow (psw : BitVec 2) : TableRow.Statement (.piaRdUnassignedLow psw) := fun _ =>
  admits_busWord 0x0F 0xFC 0xFF 0x08 0x04 0x00 (by decide) (by clear * -; revert psw; decide) (by decide) (by decide) (by decide)

theorem TableRow.piaRdUnassignedHigh (psw : BitVec 3) : TableRow.Statement (.piaRdUnassignedHigh psw) := fun _ =>
  admits_busWord 0x0F 0xF8 0xFF 0x08 0x08 0x00 (by decide) (by clear * -; revert psw; decide) (by decide) (by decide) (by decide)

theorem TableRow.piaWrUnassignedLow (psw : BitVec 2) (val : Byte) : TableRow.Statement (.piaWrUnassignedLow psw val) := fun _ =>
  admits_busWord 0x0F 0xFC 0x00 0x0A 0x04 0x00 (by decide) (by clear * -; revert psw; decide) BitVec.and_zero (by decide) (by decide)

theorem TableRow.piaWrUnassignedHigh (psw : BitVec 3) (val : Byte) : TableRow.Statement (.piaWrUnassignedHigh psw val) := fun _ =>
  admits_busWord 0x0F 0xF8 0x00 0x0A 0x08 0x00 (by decide) (by clear * -; revert psw; decide) BitVec.and_zero (by decide) (by decide)

theorem TableRow.u2SetSlot (slot : Int) : TableRow.Statement (.u2SetSlot slot) := fun _ => trivial

theorem TableRow.mouseSetSlot (slot : Int) : TableRow.Statement (.mouseSetSlot slot) := fun _ => trivial

theorem TableRow.mouseSetPosition (x y : Int) : TableRow.Statement (.mouseSetPosition x y) := fun _ => trivial

theorem TableRow.mouseSetButton (pressed : Bool) : TableRow.Statement (.mouseSetButton pressed) := fun _ => trivial

theorem TableRow.mouseGetState : TableRow.Statement .mouseGetState := fun _ => trivial

end Sys2Proof.Laws
end

