-- ==== Sys2Proof/Tests/Slice0.lean ====
section
/-! SUPPORT. The model's own tests: well-formedness, the decoding of every operation, one step of every operation against the vectors of file 95, and a witness for the hypotheses of each statement. -/

namespace Sys2Proof.Tests

open Sys2Proof Sys2Proof.Machine

/-! ## Well-formedness -/

theorem test_wf_computed_offset_refused :
    WellFormed (.imgRdSockreg 0 0x20) = false ∧ WellFormed (.imgRdSockreg 3 0x27) = false
      ∧ WellFormed (.imgRdSockreg 0 0x22) = true := by decide
theorem test_wf_plain_read_refused :
    WellFormed (.imgRdPlain 0x0400) = false ∧ WellFormed (.imgRdPlain 0x6000) = false
      ∧ WellFormed (.imgRdPlain 0x5FFF) = true := by decide
theorem test_wf_plain_write_refused :
    WellFormed (.imgWrPlain 0x0000 1) = false ∧ WellFormed (.imgWrPlain 0x0701 1) = false
      ∧ WellFormed (.imgWrPlain 0x7FFF 1) = true := by decide
theorem test_wf_listed_command_refused :
    WellFormed (.cmdUnlisted 0 0x40) = false ∧ WellFormed (.cmdUnlisted 0 0x41) = true := by decide
theorem test_wf_slot_refused :
    WellFormed (.u2SetSlot 0) = false ∧ WellFormed (.mouseSetSlot 8) = false
      ∧ WellFormed (.u2SetSlot 7) = true := by decide

/-! ## Decoding: words written out from files 30, 40, 41, 43 -/

/-- A word of the access format, under the reset conditions. -/
abbrev bus (w : BitVec 24) : Except DecodeError Instr := decode Cond.atReset (.bus w)

/-- The same with both data registers of the PIA selected. -/
abbrev busData (w : BitVec 24) : Except DecodeError Instr :=
  decode { Cond.atReset with dataA := true, dataB := true } (.bus w)

/-- A command byte for socket 2 where OPEN would open `k`. -/
abbrev cmd (k : OpenKind) (macraw : Bool) (c : Byte) : Except DecodeError Instr :=
  decode { Cond.atReset with openKind := k, statusMacraw := macraw } (.command 2 c)

theorem test_decode_u2_reads :
    bus 0x4AB00 = .ok (.u2RdRom 0xAB) ∧ bus 0x00400 = .ok .u2RdMode ∧ bus 0x00500 = .ok .u2RdArh
      ∧ bus 0x00600 = .ok .u2RdArl ∧ bus 0x00700 = .ok .u2RdData
      ∧ bus 0x00300 = .ok (.u2RdUnassignedLow 3) ∧ bus 0x00F00 = .ok (.u2RdUnassignedHigh 7) := by decide
theorem test_decode_u2_writes :
    bus 0x6AB5C = .ok (.u2WrRom 0xAB 0x5C) ∧ bus 0x2045C = .ok (.u2WrMode 0x5C)
      ∧ bus 0x2055C = .ok (.u2WrArh 0x5C) ∧ bus 0x2065C = .ok (.u2WrArl 0x5C)
      ∧ bus 0x2075C = .ok (.u2WrData 0x5C) ∧ bus 0x2035C = .ok (.u2WrUnassignedLow 3 0x5C)
      ∧ bus 0x2085C = .ok (.u2WrUnassignedHigh 0 0x5C) := by decide
theorem test_decode_pia_reads :
    bus 0xCAB00 = .ok (.piaRdRom 0xAB) ∧ bus 0x80000 = .ok .piaRdDdra ∧ busData 0x80000 = .ok .piaRdOra
      ∧ bus 0x80100 = .ok .piaRdCra ∧ bus 0x80200 = .ok .piaRdDdrb ∧ busData 0x80200 = .ok .piaRdOrb
      ∧ bus 0x80300 = .ok .piaRdCrb ∧ bus 0x80700 = .ok (.piaRdUnassignedLow 3)
      ∧ bus 0x80F00 = .ok (.piaRdUnassignedHigh 7) := by decide
theorem test_decode_pia_writes :
    bus 0xEAB5C = .ok (.piaWrRom 0xAB 0x5C) ∧ bus 0xA005C = .ok (.piaWrDdra 0x5C)
      ∧ busData 0xA005C = .ok (.piaWrOra 0x5C) ∧ bus 0xA015C = .ok (.piaWrCra 0x5C)
      ∧ bus 0xA025C = .ok (.piaWrDdrb 0x5C) ∧ busData 0xA025C = .ok (.piaWrOrb 0x5C)
      ∧ bus 0xA035C = .ok (.piaWrCrb 0x5C) ∧ bus 0xA045C = .ok (.piaWrUnassignedLow 0 0x5C)
      ∧ bus 0xA085C = .ok (.piaWrUnassignedHigh 0 0x5C) := by decide
theorem test_decode_image_reads :
    decodeImageRead 0x8001 = .imgRdInvalid 1 ∧ decodeImageRead 0x0520 = .imgRdTxFsr 1 false
      ∧ decodeImageRead 0x0721 = .imgRdTxFsr 3 true ∧ decodeImageRead 0x0426 = .imgRdRxRsr 0 false
      ∧ decodeImageRead 0x0627 = .imgRdRxRsr 2 true ∧ decodeImageRead 0x0703 = .imgRdSockreg 3 0x03
      ∧ decodeImageRead 0x7FFE = .imgRdRxwin 3 0x7FE ∧ decodeImageRead 0x0800 = .imgRdPlain 0x0800 := by decide
theorem test_decode_image_writes :
    decodeImageWrite 0xFFFF 7 = .imgWrInvalid 0x7FFF 7 ∧ decodeImageWrite 0 7 = .imgWrMode 7
      ∧ decodeImageWrite 0x0701 7 = .imgWrSnCr 3 7 ∧ decodeImageWrite 0x0420 7 = .imgWrPlain 0x0420 7
      ∧ decodeImageWrite 0x7FFF 7 = .imgWrPlain 0x7FFF 7 := by decide
theorem test_decode_open :
    cmd .tcp false 0x01 = .ok (.cmdOpenTcp 2) ∧ cmd .udp false 0x01 = .ok (.cmdOpenUdp 2)
      ∧ decode { Cond.atReset with openKind := .macraw } (.command 0 0x01) = .ok .cmdOpenMacraw
      ∧ cmd .other false 0x01 = .ok (.cmdOpenOther 2) := by decide
theorem test_decode_commands :
    cmd .tcp false 0x02 = .ok (.cmdListen 2) ∧ cmd .tcp false 0x04 = .ok (.cmdConnect 2)
      ∧ cmd .tcp false 0x08 = .ok (.cmdDiscon 2) ∧ cmd .tcp false 0x10 = .ok (.cmdClose 2)
      ∧ cmd .tcp true 0x20 = .ok (.cmdSendMacraw 2) ∧ cmd .tcp false 0x20 = .ok (.cmdSendTcp 2)
      ∧ cmd .tcp false 0x40 = .ok (.cmdRecv 2) ∧ cmd .tcp false 0x21 = .ok (.cmdUnlisted 2 0x21) := by decide
theorem test_decode_calls :
    decode Cond.atReset (.pollSocket 3) = .ok (.pollSocket 3) ∧ decode Cond.atReset .pollVtcp = .ok .pollVtcp
      ∧ decode Cond.atReset (.callU2SetSlot 3) = .ok (.u2SetSlot 3)
      ∧ decode Cond.atReset (.callMouseSetSlot 4) = .ok (.mouseSetSlot 4)
      ∧ decode Cond.atReset (.callSetPosition 600 (-2)) = .ok (.mouseSetPosition 600 (-2))
      ∧ decode Cond.atReset (.callSetButton true) = .ok (.mouseSetButton true)
      ∧ decode Cond.atReset .callGetState = .ok .mouseGetState := by decide
theorem test_decode_rejects :
    bus 0x100000 = .error .wordTooWide ∧ bus 0x30402 = .error .bit16Set ∧ bus 0x00401 = .error .readWithValue
      ∧ bus 0x01000 = .error .softSwitchAbove15
      ∧ decode Cond.atReset (.callU2SetSlot 8) = .error .slotOutOfRange := by decide

/-! ## One step -/

/-- The state after one request, `none` where the step is refused. -/
def after (s : State) (r : Request) : Option State :=
  match step (s.withRequest r) with
  | .next t => some t
  | .refused _ => none
  | .fault _ => none

/-- The byte that one access word delivers. -/
def readsAs (s : State) (w : BitVec 24) : Option Byte := (after s (.bus w)).bind State.delivered

/-- The reset state with these cells in the image. -/
def withMem (m : Memory) : State := { State.reset with mem := m }

/-- The reset state with these answers of the host to come. -/
def withHost (m : Memory) (l : List HostAnswer) : State := { State.reset with mem := m, hostScript := l }

/-- Socket 0 with the handle 11. -/
def open0 : Sock := { Sock.reset with handle := some 11 }

/-- A state whose socket 0 is in status `sr` with the handle 11. -/
def inStatus (sr : Byte) (l : List HostAnswer) : State :=
  (withHost [(0x0400, 1), (0x0403, sr)] l).setSock 0 open0

/-- A state whose socket 0 is in MACRAW mode, with these answers of the virtual layer to come. -/
def macraw0 (k : Sock) (m : Memory) (l : List VNetAnswer) : State :=
  { (withMem ((0x0400, 4) :: (0x0403, 0x42) :: m)).setSock 0 { k with macraw := true } with vnetScript := l }

/-- T1: the identification bytes; writes to the window change nothing. -/
theorem test_u2_rd_rom : readsAs State.reset 0x40500 = some 0x38 ∧ readsAs State.reset 0x40700 = some 0x18
    ∧ readsAs State.reset 0x40000 = some 0 ∧ readsAs State.reset 0x4FF00 = some 0 := by decide
theorem test_u2_wr_rom : exec (.u2WrRom 5 0xFF) State.reset = .next State.reset := rfl
/-- T2. -/
theorem test_u2_mode : (after State.reset (.bus 0x20403)).bind (readsAs · 0x00400) = some 0x03
    ∧ (after State.reset (.bus 0x20482)).bind (readsAs · 0x00400) = some 0x02 := by decide
/-- T3. -/
theorem test_u2_pointer_high :
    (after { State.reset with addrPtr := 0x1234 } (.bus 0x20504)).map State.addrPtr = some 0x0434
      ∧ readsAs { State.reset with addrPtr := 0x0434 } 0x00500 = some 0x04 := by decide
theorem test_u2_pointer_low :
    (after { State.reset with addrPtr := 0x0434 } (.bus 0x20601)).map State.addrPtr = some 0x0401
      ∧ readsAs { State.reset with addrPtr := 0x0434 } 0x00600 = some 0x34 := by decide
/-- T4, T5: no increment with AI off; from 0x7FFF to 0 with AI on. -/
theorem test_u2_rd_data :
    (after { State.reset with addrPtr := 0x0009 } (.bus 0x00700)).map (fun t => (t.delivered, t.addrPtr))
        = some (some 0x02, 0x0009)
      ∧ (after { withMem [(0, 2)] with addrPtr := 0x7FFF } (.bus 0x00700)).map State.addrPtr = some 0 := by decide
/-- T6, T8: beyond 0x8000 a read gives 0, a write is lost, and the pointer moves. -/
theorem test_u2_invalid :
    (after { withMem [(0, 2)] with addrPtr := 0x9000 } (.bus 0x00700)).map (fun t => (t.delivered, t.addrPtr))
        = some (some 0, 0x1001)
      ∧ (after { withMem [(0, 2)] with addrPtr := 0xFFFF } (.bus 0x20755)).map (fun t => (t.mem, t.addrPtr))
        = some ([(0, 2)], 0) := by decide
/-- S2, T16: the store, and the increment decided by the mode byte as it then is. -/
theorem test_u2_wr_data :
    (after { withMem [(0, 2)] with addrPtr := 4 } (.bus 0x207AA)).map (fun t => (t.peek 4, t.addrPtr))
        = some (0xAA, 5)
      ∧ (after { withMem [(0, 2)] with addrPtr := 0 } (.bus 0x20700)).map (fun t => (t.peek 0, t.addrPtr))
        = some (0, 0) := by decide
/-- T11. -/
theorem test_u2_unassigned : readsAs State.reset 0x00000 = some 0 ∧ readsAs State.reset 0x00F00 = some 0
    ∧ exec (.u2WrUnassignedLow 0 0xFF) State.reset = .next State.reset
    ∧ exec (.u2WrUnassignedHigh 7 0xFF) State.reset = .next State.reset := ⟨by decide, by decide, rfl, rfl⟩

/-- The byte that a read of an image address delivers. -/
def imageAs (s : State) (a : Word16) : Option Byte := (after s (.imageRead a)).bind State.delivered

theorem test_img_rd_invalid : imageAs State.reset 0x8000 = some 0 := by decide
/-- T20. -/
theorem test_img_rd_tx_fsr :
    imageAs (withMem [(0x422, 0x40), (0x424, 0x40), (0x425, 0x64)]) 0x0420 = some 0x07
      ∧ imageAs (withMem [(0x422, 0x40), (0x424, 0x40), (0x425, 0x64)]) 0x0421 = some 0x9C
      ∧ imageAs (withMem [(0x422, 0xFF), (0x423, 0xF0), (0x424, 0), (0x425, 0x10)]) 0x0421 = some 0xE0 := by decide
/-- 40 R173: tail less head modulo 2048, and without the modulus in MACRAW mode. -/
theorem test_img_rd_rx_rsr :
    imageAs (State.reset.setSock 1 { Sock.reset with rxHead := 2040, rxTail := 8 }) 0x0527 = some 0x10
      ∧ imageAs (macraw0 { Sock.reset with rxTail := 3000 } [] []) 0x0426 = some 0x0B
      ∧ imageAs (macraw0 { Sock.reset with rxHead := 1 } [] []) 0x0426 = none := by decide
/-- S3: a read of Sn_SR completes a pending connect first. -/
theorem test_img_rd_sockreg :
    imageAs ((withHost [(0x0403, 0x15)] [.flag true, .ok, .flag false]).setSock 0
      { open0 with connecting := true }) 0x0403 = some 0x17 := by decide
theorem test_img_rd_rxwin :
    imageAs (State.reset.setSock 1 { Sock.reset with staging := [(1, 0x58)] }) 0x6801 = some 0x58 := by decide
theorem test_img_rd_plain : imageAs State.reset 0x000F = some 0xC0 ∧ imageAs State.reset 0x0017 = some 0x07 := by decide
theorem test_img_wr_invalid : exec (.imgWrInvalid 0 0x55) State.reset = .next State.reset := rfl
/-- T15. -/
theorem test_img_wr_mode :
    (after (withMem [(9, 8)]) (.imageWrite 0 0x83)).map (fun t => (t.peek 9, t.peek 0)) = some (0x02, 0x03) := by decide
/-- T30: the command runs, then the register reads 0. -/
theorem test_img_wr_sn_cr :
    (after (withHost [(0x0400, 1)] [.handle 11]) (.imageWrite 0x0401 0x01)).map
      (fun t => (t.peek 0x401, t.status 0)) = some (0, 0x13) := by decide
/-- T18: a store at a computed register is kept and never read. -/
theorem test_img_wr_plain :
    (after State.reset (.imageWrite 0x0420 0x12)).map (fun t => (t.peek 0x420, imageAs t 0x0420))
      = some (0x12, some 0x08) := by decide

/-- T30, T34, T35. -/
theorem test_cmd_open_tcp :
    (after (withHost [(0x0400, 0x21)] [.handle 12]) (.command 0 1)).map
        (fun t => (t.status 0, (t.sock 0).handle)) = some (0x13, some 12)
      ∧ (after ((withHost [(0x0400, 1), (0x0403, 0x13)] [.fail]).setSock 0 open0) (.command 0 1)).map
        (fun t => (t.status 0, (t.sock 0).handle, t.envLog)) = some (0, none, [.openStream, .close 11]) := by decide
/-- T31. -/
theorem test_cmd_open_udp :
    (after (withHost [(0x0500, 2)] [.handle 12]) (.command 1 1)).map
        (fun t => (t.status 1, (t.sock 1).handle, t.envLog)) = some (0x22, some 12, [.openDgram]) := by decide
theorem test_cmd_open_macraw :
    (after (withMem [(0x0400, 4)]) (.command 0 1)).map
        (fun t => (t.status 0, (t.sock 0).macraw, t.envLog)) = some (0x42, true, []) := by decide
/-- T32, T33. -/
theorem test_cmd_open_other :
    (after (withMem [(0x0500, 4)]) (.command 1 1)).map (fun t => (t.status 1, t.hostDraws)) = some (0, 0)
      ∧ (after (withMem [(0x0400, 3)]) (.command 0 1)).map (fun t => (t.status 0, t.hostDraws)) = some (0, 0) := by decide
/-- T37, T38. -/
theorem test_cmd_listen :
    (after (inStatus 0x13 [.ok]) (.command 0 2)).map (fun t => (t.status 0, t.envLog))
        = some (0x14, [.bindListen 11 0 1])
      ∧ (after (inStatus 0x13 [.fail, .close]) (.command 0 2)).map
        (fun t => (t.status 0, (t.sock 0).handle)) = some (0, none) := by decide
/-- T42, T40: not redirected, in progress; refused. -/
theorem test_cmd_connect :
    (after ((withHost [(0x0403, 0x13), (0x040C, 0xC0), (0x040D, 0xA8), (0x040E, 0x41), (0x040F, 1), (0x0411, 0x17)]
        [.inProgress]).setSock 0 open0) (.command 0 4)).map
        (fun t => (t.status 0, (t.sock 0).connecting, t.envLog)) = some (0x15, true, [.connect 11 0x7F000001 23])
      ∧ (after (inStatus 0x13 [.fail]) (.command 0 4)).map (fun t => (t.status 0, (t.sock 0).handle))
        = some (0, none) := by decide
/-- T49. -/
theorem test_cmd_discon :
    (after ((inStatus 0x17 []).setSock 0 { open0 with rxHead := 1, rxTail := 3 }) (.command 0 8)).map
        (fun t => (t.status 0, t.sock 0, t.envLog)) = some (0, Sock.reset, [.close 11]) := by decide
/-- T59. -/
theorem test_cmd_close :
    (after (macraw0 { Sock.reset with rxTail := 61 } [] []) (.command 0 0x10)).map
        (fun t => (t.status 0, t.sock 0)) = some (0, Sock.reset) := by decide
/-- T51: 1601 bytes are dropped and the ring is drained; T54: two answered frames are staged. -/
theorem test_cmd_send_macraw :
    (after (macraw0 Sock.reset [(0x424, 0x46), (0x425, 0x41)] []) (.command 0 0x20)).map
        (fun t => (t.get16 0x422, t.vnetDraws)) = some (0x4641, 0)
      ∧ (after (macraw0 Sock.reset [(0x425, 1)] [.oracle [[0xA0, 0xA1], [0xB0]] none none]) (.command 0 0x20)).map
        (fun t => (t.get16 0x422, (t.sock 0).staging, (t.sock 0).rxTail)) =
        some (0x4001, [(1, 4), (2, 0xA0), (3, 0xA1), (5, 3), (6, 0xB0)], 7) := by decide
/-- T45: the ring is read modulo 2048, the pointer is not reduced. -/
theorem test_cmd_send_tcp :
    (after ((withHost [(0x503, 0x17), (0x522, 0x4F), (0x523, 0xFE), (0x524, 0x50), (0x525, 0x02), (0x4800, 0x43),
        (0x4801, 0x44), (0x4FFE, 0x41), (0x4FFF, 0x42)] [.count 4]).setSock 1 open0) (.command 1 0x20)).map
        (fun t => (t.get16 0x522, t.envLog)) = some (0x5002, [.send 11 [0x41, 0x42, 0x43, 0x44]])
      ∧ (after (inStatus 0x17 []) (.command 0 0x20)).map State.hostDraws = some 0 := by decide
/-- T53, T57. -/
theorem test_cmd_recv :
    (after ((withMem [(0x428, 0x60), (0x429, 4)]).setSock 0 { Sock.reset with rxTail := 10 }) (.command 0 0x40)).map
        (fun t => ((t.sock 0).rxHead, (t.sock 0).rxTail, t.get16 0x428)) = some (4, 10, 0x6004)
      ∧ (after (macraw0 { Sock.reset with rxTail := 3000 } [(0x428, 0x6B), (0x429, 0xB8)] []) (.command 0 0x40)).map
        (fun t => ((t.sock 0).rxHead, (t.sock 0).rxTail, t.get16 0x428)) = some (0, 0, 0x6000) := by decide
/-- 93 U4: a position beyond the staged data is refused. -/
theorem test_cmd_recv_refused :
    exec (.cmdRecv 0) (withMem [(0x429, 1)]) = .refused .recvBeyondStaged := rfl
theorem test_cmd_unlisted : exec (.cmdUnlisted 0 0x21) State.reset = .next State.reset := rfl

/-- T61, T63: three bytes received; sixteen bytes over the end of the ring. -/
theorem test_poll_receive :
    (after (inStatus 0x17 [.flag true, .bytes [0x41, 0x42, 0x43]]) (.pollSocket 0)).map
        (fun t => ((t.sock 0).staging, (t.sock 0).rxTail)) = some ([(0, 0x41), (1, 0x42), (2, 0x43)], 3)
      ∧ (after ((inStatus 0x17 [.flag true, .bytes [0x61, 0x62]]).setSock 0
          { open0 with rxHead := 2047, rxTail := 2047 }) (.pollSocket 0)).map
        (fun t => ((t.sock 0).staging, (t.sock 0).rxTail)) = some ([(0, 0x62), (2047, 0x61)], 1) := by decide
/-- T48, T37: the peer closed; an accepted connection replaces the listening handle. -/
theorem test_poll_close_and_accept :
    (after (inStatus 0x17 [.flag true, .bytes []]) (.pollSocket 0)).map
        (fun t => (t.status 0, (t.sock 0).handle, t.envLog.head?)) = some (0x1C, none, some (.close 11))
      ∧ (after (inStatus 0x14 [.flag true, .handle 15]) (.pollSocket 0)).map
        (fun t => (t.status 0, (t.sock 0).handle, t.envLog.head?)) = some (0x17, some 15, some (.close 11)) := by decide
/-- T58: what the virtual layer returns is staged; 42 R265: a frame that does not fit is dropped whole. -/
theorem test_poll_vtcp :
    (after (macraw0 Sock.reset [] [.oracle [[7]] none none]) .pollVtcp).map
        (fun t => ((t.sock 0).staging, (t.sock 0).rxTail)) = some ([(1, 3), (2, 7)], 3)
      ∧ (after (macraw0 { Sock.reset with rxTail := 4094 } [] [.oracle [[7]] none none]) .pollVtcp).map
        (fun t => (t.sock 0).rxTail) = some 4094 := by decide

/-- A state with these bytes in ORA, ORB, CRA, CRB. -/
def withPia (ora orb cra crb : Byte) : State :=
  { State.reset with pia := { State.reset.pia with ora := ora, orb := orb, cra := cra, crb := crb } }

/-- T60, T69. -/
theorem test_pia_rd_rom : readsAs State.reset 0xC0500 = some 0x38 ∧ readsAs State.reset 0xCFB00 = some 0xD6
    ∧ readsAs (withPia 0 0xFB 0 0) 0xC0500 = some 0 ∧ readsAs (withPia 0 0x08 0 0) 0xC0500 = some 0x38 := by decide
theorem test_pia_wr_rom : exec (.piaWrRom 5 0) State.reset = .next State.reset := rfl
/-- T67. -/
theorem test_pia_ddra : (after State.reset (.bus 0xA000F)).bind (readsAs · 0x80000) = some 0x0F := by decide
theorem test_pia_ddrb : (after State.reset (.bus 0xA02FF)).bind (readsAs · 0x80200) = some 0xFF := by decide
/-- T68. -/
theorem test_pia_cra : (after State.reset (.bus 0xA01FF)).bind (readsAs · 0x80100) = some 0x3F := by decide
theorem test_pia_crb : (after State.reset (.bus 0xA03FF)).bind (readsAs · 0x80300) = some 0x3F := by decide
/-- T69. -/
theorem test_pia_orb : (after (withPia 0 0 0 4) (.bus 0xA02FB)).bind (readsAs · 0x80200) = some 0xFB := by decide
/-- T73. -/
theorem test_pia_wr_ora : (after (withPia 0 0 4 0) (.bus 0xA00FF)).bind (readsAs · 0x80000) = some 0x80 := by decide
/-- T75, its first and third reads. -/
theorem test_pia_rd_ora :
    (after { withPia 0 0 4 0 with mouse := { State.reset.mouse with dx := -2, dy := 3 } } (.bus 0x80000)).map
        (fun t => (t.delivered, t.mouse.dx, t.mouse.dy)) = some (some 0x8D, -1, 2)
      ∧ readsAs { withPia 0 0 4 0 with mouse := { State.reset.mouse with dy := 1 } } 0x80000 = some 0x8C := by decide
/-- T77. -/
theorem test_pia_unassigned : readsAs State.reset 0x80400 = some 0 ∧ readsAs State.reset 0x80F00 = some 0
    ∧ exec (.piaWrUnassignedLow 0 0xFF) State.reset = .next State.reset
    ∧ exec (.piaWrUnassignedHigh 7 0xFF) State.reset = .next State.reset := ⟨by decide, by decide, rfl, rfl⟩

theorem test_u2_set_slot :
    (after State.reset (.callU2SetSlot 3)).map (fun t => (t.params.u2Slot, t.params.mouseSlot, t.envLog))
      = some (some 3, none, [.slot .uthernet2 3]) := by decide
theorem test_mouse_set_slot :
    (after State.reset (.callMouseSetSlot 4)).map (fun t => (t.params.u2Slot, t.params.mouseSlot, t.envLog))
        = some (none, some 4, [.slot .mouse 4])
      ∧ after { State.reset with started := true } (.callMouseSetSlot 4) = none := by decide
/-- T79, P4. -/
theorem test_mouse_set_position :
    (after State.reset (.callSetPosition 600 512)).map (fun t => (t.mouse.dx, t.mouse.x, t.mouse.dy)) = some (88, 600, 0)
    := by decide
/-- T74. -/
theorem test_mouse_set_button :
    (after (withPia 0 0 4 0) (.callSetButton true)).bind (readsAs · 0x80000) = some 0x00 := by decide
/-- T78. -/
theorem test_mouse_get_state :
    (after State.reset .callGetState).bind State.report = some ⟨512, 512, false⟩ := by decide

/-! ## The virtual network layer -/

/-- The choices under which file 95 writes out its frames. -/
def choices : VNetChoices :=
  { (default : VNetChoices) with replies := [⟨0, 0, 0, 0x0200DEADBE01⟩], dhcpSrcIp := 0xC0A84101 }

/-- The ARP request of program P3, for the target `ip`. -/
def arpRequest (ip : Ip) : Frame :=
  ethHeader bcastMac 0x080007123456 0x0806 ++ [0, 1, 8, 0, 6, 4, 0, 1] ++ macBytes 0x080007123456
    ++ be32 0xC0A84164 ++ macBytes 0 ++ be32 ip

/-- A DHCP message of type `t` with the XID 0xDEADBEEF from the client 08:00:07:12:34:56. -/
def dhcpFrame (t : Byte) : Frame :=
  ethHeader bcastMac 0x080007123456 0x0800 ++ [0x45, 0, 1, 0x10] ++ zeros 5 ++ [17] ++ zeros 10
    ++ [0, 68, 0, 67, 0, 0xFC] ++ zeros 2 ++ [1, 1, 6, 0] ++ be32 0xDEADBEEF ++ zeros 20 ++ macBytes 0x080007123456 ++ zeros 202
    ++ [0x63, 0x82, 0x53, 0x63, 53, 1, t, 255]

/-- The SYN of T72. -/
def synFrame : Frame :=
  ethHeader vnGwMac 0x080007123456 0x0800 ++ [0x45, 0, 0, 40] ++ zeros 5 ++ [6, 0, 0] ++ be32 0xC0A84164
    ++ be32 0xC0A84101 ++ be16 49152 ++ be16 6502 ++ be32 0x1000 ++ zeros 4 ++ [0x50, 0x02] ++ zeros 6

/-- Program P3 and T80. -/
theorem test_vnet_arp :
    (respond choices (arpRequest 0xC0A84101) State.reset).1 =
        [[0x08, 0x00, 0x07, 0x12, 0x34, 0x56, 0x02, 0x00, 0xDE, 0xAD, 0xBE, 0x01, 0x08, 0x06, 0, 1, 8, 0, 6, 4, 0, 2,
          0x02, 0x00, 0xDE, 0xAD, 0xBE, 0x01, 0xC0, 0xA8, 0x41, 0x01, 0x08, 0x00, 0x07, 0x12, 0x34, 0x56, 0xC0, 0xA8,
          0x41, 0x64]]
      ∧ (respond choices (arpRequest 0xC0A84102) State.reset).1 = [] := by decide
/-- T70: the OFFER's length and its Ethernet, IPv4 and UDP headers. -/
theorem test_vnet_offer :
    (respond choices (dhcpFrame 1) State.reset).1.map (fun f => (f.length, f.take 42)) =
      [(342, [0xFF, 0xFF, 0xFF, 0xFF, 0xFF, 0xFF, 0x02, 0, 0, 0, 0, 1, 8, 0, 0x45, 0, 0x01, 0x48, 0, 0, 0, 0, 0x40, 0x11,
        0x77, 0xFC, 0xC0, 0xA8, 0x41, 0x01, 0xFF, 0xFF, 0xFF, 0xFF, 0, 0x43, 0, 0x44, 0x01, 0x34, 0, 0])] := by
  decide +kernel
/-- 44 R312, log 36: an IPv4 total length or a UDP length one too long makes a DHCP frame malformed. -/
theorem test_vnet_malformed_lengths :
    dhcpMessage choices (dhcpFrame 1) = some (42, 1) ∧ dhcpMessage choices ((dhcpFrame 1).set 17 0x11) = none
      ∧ dhcpMessage choices ((dhcpFrame 1).set 39 0xFD) = none := by decide +kernel
/-- 44 R321, log 37: the first option 53 and its first value byte, whatever length of 1 or more it announces;
with length 0 or no value byte there is no type. -/
theorem test_vnet_message_type :
    dhcpType 9 [53, 9, 3] = some 3 ∧ dhcpType 9 [0, 53, 2, 1, 7, 53, 1, 3] = some 1
      ∧ dhcpType 9 [53, 0, 1] = none ∧ dhcpType 9 [53, 1] = none := by decide
/-- 44 R332: the ACK completes the handshake also where the host has closed, and not after the client's FIN. -/
theorem test_vnet_handshake_ack :
    (ackFlow { (default : VTcp) with finSent := true } ⟨0, 0, 0, 0, 0, 0, 0x10, false, []⟩).established = true
      ∧ (ackFlow { (default : VTcp) with finSent := true, finReceived := true }
          ⟨0, 0, 0, 0, 0, 0, 0x10, false, []⟩).established = false := by decide
/-- T72: the SYN+ACK, byte by byte. -/
theorem test_vnet_syn_ack :
    (respond choices synFrame { State.reset with hostScript := [.handle 11] }).1 =
      [[0x08, 0x00, 0x07, 0x12, 0x34, 0x56, 0x02, 0x00, 0xDE, 0xAD, 0xBE, 0x01, 0x08, 0x00, 0x45, 0, 0, 0x28, 0, 0, 0, 0,
        0x40, 0x06, 0x77, 0x1A, 0xC0, 0xA8, 0x41, 0x01, 0xC0, 0xA8, 0x41, 0x64, 0x19, 0x66, 0xC0, 0, 0, 0, 0x30, 0x39, 0,
        0, 0x10, 0x01, 0x50, 0x12, 0x20, 0, 0x72, 0x7B, 0, 0]] := by decide +kernel

/-! ## Witnesses: states and operands that meet the hypotheses of the statements -/

theorem witness_EncodeThenDecode :
    WellFormed (.piaWrOra 7) = true ∧ PiaMap.default.onto = true
      ∧ Cond.selects { Cond.atReset with dataA := true } (.piaWrOra 7) = true := by decide
theorem witness_DecodeThenEncode :
    State.reset.params.rsMap.onto = true
      ∧ decode (State.reset.cond 0) (.bus 0xA00FF) = .ok (.piaWrDdra 0xFF) := by decide
/-- The first and the last address of each class. -/
theorem witness_ImageClasses :
    0x8000 ≤ (0x8000 : Word16).toNat ∧ 0x8000 ≤ (0xFFFF : Word16).toNat
      ∧ (0x0400 : Word16).toNat = sockBase 0 + (0x00 : Byte).toNat
      ∧ (0x07FF : Word16).toNat = sockBase 3 + (0xFF : Byte).toNat
      ∧ (0x6000 : Word16).toNat = rxBase 0 + (0 : BitVec 11).toNat
      ∧ (0x7FFF : Word16).toNat = rxBase 3 + (0x7FF : BitVec 11).toNat
      ∧ (0x03FF : Word16).toNat < 0x400 ∧ 0x800 ≤ (0x0800 : Word16).toNat ∧ (0x5FFF : Word16).toNat < 0x6000
      ∧ (0x0000 : Word16).toNat = 0 ∧ (0x0701 : Word16).toNat = snCr 3
      ∧ (0x7FFF : Word16).toNat < 0x8000 ∧ ∀ n : SockId, (0x7FFF : Word16).toNat ≠ snCr n := by decide
theorem witness_StepRunsTheRequest :
    State.reset.pending = []
      ∧ decode (State.reset.cond 0) (.bus 0x20402) = .ok (.u2WrMode 2)
      ∧ decode (State.reset.cond 0) (.bus 0x30402) = .error .bit16Set
      ∧ decode (State.reset.cond (Request.ofTableWord 24 0x20402).socket) (Request.ofTableWord 24 0x20402)
        = .ok (.u2WrMode 2) := by decide
/-- Each of the refusals is reached, the operations that reach RECV and Sn_RX_RSR included. -/
theorem witness_StepStops :
    step (State.reset.withRequest (.bus 0x30402)) = .refused (.badRequest .bit16Set)
      ∧ step ((withMem [(0x429, 1)]).withRequest (.command 0 0x40)) = .refused .recvBeyondStaged
      ∧ step ((macraw0 { Sock.reset with rxHead := 1 } [] []).withRequest (.command 0 0x40))
        = .refused .macrawTailBelowHead
      ∧ step ({ withMem [(0x429, 1)] with addrPtr := 0x0401 }.withRequest (.bus 0x20740)) = .refused .recvBeyondStaged
      ∧ step ({ macraw0 { Sock.reset with rxHead := 1 } [] [] with addrPtr := 0x0427 }.withRequest (.bus 0x00700))
        = .refused .macrawTailBelowHead
      ∧ step ({ State.reset with started := true }.withRequest (.callU2SetSlot 3)) = .refused .slotAfterStart
      ∧ step ((State.reset.storeSlot .mouse 3).withRequest (.callU2SetSlot 3)) = .refused .slotTaken :=
  ⟨rfl, rfl, rfl, rfl, rfl, rfl, rfl⟩
theorem witness_ModeWrites : (0x7F : Byte).getLsbD 7 = false ∧ (0x80 : Byte).getLsbD 7 = true := by decide
theorem witness_ResetComplete : (0xFF : Byte).getLsbD 7 = true := by decide
theorem witness_PlainRead :
    (0x3FF < 0x400 ∨ (0x800 ≤ 0x3FF ∧ 0x3FF < 0x6000)) ∧ (0x5FFF < 0x400 ∨ (0x800 ≤ 0x5FFF ∧ 0x5FFF < 0x6000)) := by
  decide
theorem witness_InvalidAddresses :
    { State.reset with addrPtr := 0x8000 }.addrPtr.toNat = 0x8000 + (0 : BitVec 15).toNat
      ∧ { State.reset with addrPtr := 0xFFFF }.addrPtr.toNat = 0x8000 + (0x7FFF : BitVec 15).toNat := by decide
theorem witness_PlainWrite : WellFormed (.imgWrPlain 0x0001 5) = true ∧ WellFormed (.imgWrPlain 0x7FFF 5) = true := by
  decide
theorem witness_DataPortReads :
    (∀ n low, decodeImageRead 0x0426 = .imgRdRxRsr n low → State.reset.fillDefined n)
      ∧ exec (.imgRdRxRsr 0 false) (macraw0 { Sock.reset with rxHead := 1 } [] []) = .refused .macrawTailBelowHead :=
  ⟨fun n _ _ => .inl (by fin_cases n <;> rfl), rfl⟩
theorem witness_DataPortWrites :
    (∀ n, decodeImageWrite 0x0401 0x40 = .imgWrSnCr n 0x40 → (0x40 : Byte) = 0x40 →
        (State.reset.setSock n { Sock.reset with rxTail := 1 }).recvReady n)
      ∧ exec (.imgWrSnCr 0 0x40) (withMem [(0x429, 1)]) = .refused .recvBeyondStaged :=
  ⟨fun n _ _ => by fin_cases n <;> exact ⟨1, rfl, by decide⟩, rfl⟩
/-- Two Data accesses with AI on. -/
theorem witness_AutoIncrementLaw :
    let s := { withMem [(0, 2)] with addrPtr := 0x7FFF, pending := [.bus 0x00700, .bus 0x20757] }
    (∀ r ∈ s.pending, isDataAccess r)
      ∧ (∀ k t, 1 ≤ k → k ≤ 2 → Host.Core.run core k s = .next t → t.autoInc = true ∧ t.resets = s.resets)
      ∧ ∃ t, exec .u2RdData s = .next t ∧ t.addrPtr ≠ s.addrPtr := by
  refine ⟨?_, fun k t h1 h2 e => ?_, _, rfl, by decide⟩
  · simp only [List.mem_cons, List.not_mem_nil, or_false]
    rintro r (rfl | rfl)
    · exact .inl rfl
    · exact .inr ⟨0x57, rfl⟩
  · interval_cases k <;> cases e <;> exact ⟨by decide, rfl⟩
theorem witness_PageRead : WellFormed (.imgRdSockreg 0 0x00) = true ∧ WellFormed (.imgRdSockreg 3 0xFF) = true := by
  decide
theorem witness_RxReceivedSize :
    State.reset.fillDefined 3 ∧ (macraw0 Sock.reset [] []).fillDefined 0
      ∧ (((macraw0 { Sock.reset with rxHead := 1 } [] []).pagePoll 0).sock 0).macraw = true
      ∧ (((macraw0 { Sock.reset with rxHead := 1 } [] []).pagePoll 0).sock 0).rxTail
        < (((macraw0 { Sock.reset with rxHead := 1 } [] []).pagePoll 0).sock 0).rxHead :=
  ⟨.inl rfl, .inr ⟨rfl, by decide⟩, rfl, by decide⟩
theorem witness_CommandRegisterWrite :
    (State.reset.setSock 3 { Sock.reset with rxTail := 1 }).recvReady 3
      ∧ exec (decodeCommand ((withMem [(0x429, 1)]).cond 0) 0 0x40) (withMem [(0x429, 1)])
        = .refused .recvBeyondStaged := ⟨⟨1, rfl, by decide⟩, rfl⟩
theorem witness_DispatcherTable :
    (0x41 : Byte) ∉ [(0x01 : Byte), 0x02, 0x04, 0x08, 0x10, 0x20, 0x40]
      ∧ (withMem [(0x0703, 0x13)]).status 3 = 0x13 ∧ (withMem [(0x0703, 0x17)]).status 3 = 0x17
      ∧ State.reset.status 3 ≠ 0x13 ∧ State.reset.status 3 ≠ 0x17 ∧ State.reset.status 3 ≠ 0x42 := by decide
theorem witness_ListenInInit :
    (inStatus 0x13 [.ok]).status 0 = 0x13 ∧ ((inStatus 0x13 [.ok]).sock 0).handle = some 11
      ∧ ((inStatus 0x13 [.ok]).answerAt 0).isOk = true
      ∧ ((inStatus 0x13 [.fail, .keep]).answerAt 0).isOk = false
      ∧ ((inStatus 0x13 [.fail, .keep]).answerAt 1).isClose = false
      ∧ ((inStatus 0x13 [.fail, .close]).answerAt 1).isClose = true
      ∧ (withHost [(0x0403, 0x13)] [.close]).status 0 = 0x13
      ∧ ((withHost [(0x0403, 0x13)] [.close]).sock 0).handle = none
      ∧ ((withHost [(0x0403, 0x13)] [.close]).answerAt 0).isClose = true := by decide
theorem witness_ConnectInInit :
    (inStatus 0x13 [.fail]).status 0 = 0x13 ∧ ((inStatus 0x13 [.fail]).sock 0).handle = some 11
      ∧ (withMem [(0x0703, 0x13)]).status 3 = 0x13 ∧ ((withMem [(0x0703, 0x13)]).sock 3).handle = none := by decide
theorem witness_SendTcp :
    (inStatus 0x17 [.count 1]).status 0 = 0x17 ∧ (inStatus 0x17 [.count 1]).txLen 0 = 0
      ∧ ((inStatus 0x17 [.count 1]).poke 0x425 1).status 0 = 0x17
      ∧ (((inStatus 0x17 [.count 1]).poke 0x425 1).sock 0).handle = some 11
      ∧ ((inStatus 0x17 [.count 1]).poke 0x425 1).txLen 0 ≠ 0 := by decide
/-- The lengths at which the clauses meet: 0, 1, 1600, 1601. -/
theorem witness_SendMacraw :
    (macraw0 Sock.reset [] []).status 0 = 0x42 ∧ (macraw0 Sock.reset [] []).txLen 0 = 0
      ∧ 1 ≤ (macraw0 Sock.reset [(0x425, 1)] []).txLen 0
      ∧ (macraw0 Sock.reset [(0x424, 0x46), (0x425, 0x40)] []).txLen 0 ≤ 1600
      ∧ 1600 < (macraw0 Sock.reset [(0x424, 0x46), (0x425, 0x41)] []).txLen 0 := by decide
/-- RECV of all ten bytes, of four of them, of eleven; and a MACRAW tail below its head. -/
theorem witness_RecvAdvances :
    ((withMem [(0x429, 10)]).setSock 0 { Sock.reset with rxTail := 10 }).recvReady 0
      ∧ ((withMem [(0x429, 4)]).setSock 0 { Sock.reset with rxTail := 10 }).recvReady 0
      ∧ (0 + ((withMem [(0x429, 10)]).setSock 0 { Sock.reset with rxTail := 10 }).recvDelta 0) % 2048 = 10
      ∧ (0 + ((withMem [(0x429, 4)]).setSock 0 { Sock.reset with rxTail := 10 }).recvDelta 0) % 2048 ≠ 10
      ∧ 10 < ((withMem [(0x429, 11)]).setSock 0 { Sock.reset with rxTail := 10 }).recvDelta 0
      ∧ ({ Sock.reset with macraw := true, rxHead := 1 } : Sock).rxTail < 1 :=
  ⟨⟨10, rfl, by decide⟩, ⟨10, rfl, by decide⟩, by decide, by decide, by decide, by decide⟩
theorem witness_RecvEmpties :
    ({ Sock.reset with rxTail := 10 } : Sock).macraw = false ∧ ({ Sock.reset with rxTail := 10 } : Sock).rxTail < 2048
      ∧ ({ Sock.reset with rxTail := 10 } : Sock).rsr
        = some (((withMem [(0x429, 10)]).setSock 0 { Sock.reset with rxTail := 10 }).recvDelta 0)
      ∧ (macraw0 { Sock.reset with rxTail := 3000 } [(0x428, 0x6B), (0x429, 0xB8)] []).recvDelta 0 = 3000
      ∧ ((macraw0 { Sock.reset with rxTail := 3000 } [] []).sock 0).rsr = some 3000 := by decide
theorem witness_PollFrame :
    (State.reset.sock 3).handle = none ∧ ((inStatus 0x13 []).sock 0).connecting = false
      ∧ (inStatus 0x13 []).status 0 ≠ 0x17 ∧ (inStatus 0x13 []).status 0 ≠ 0x14 := by decide
/-- A connect in progress with the answers `l` to come. -/
def connecting0 (l : List HostAnswer) : State :=
  (withHost [(0x0403, 0x15)] l).setSock 0 { open0 with connecting := true }
theorem witness_PollConnect :
    ((connecting0 []).sock 0).handle = some 11 ∧ ((connecting0 []).sock 0).connecting = true
      ∧ (connecting0 []).status 0 ≠ 0x17 ∧ (connecting0 []).status 0 ≠ 0x14
      ∧ ((connecting0 [.flag false]).answerAt 0).isTrue = false
      ∧ ((connecting0 [.flag true, .ok]).answerAt 0).isTrue = true
      ∧ ((connecting0 [.flag true, .ok]).answerAt 1).isOk = true
      ∧ ((connecting0 [.flag true, .fail]).answerAt 1).isOk = false := by decide
/-- The free space at its two ends, 2047 and 0, and the four kinds of answer. -/
theorem witness_PollReceive :
    ((inStatus 0x17 []).sock 0).handle = some 11 ∧ ((inStatus 0x17 []).sock 0).connecting = false
      ∧ (inStatus 0x17 []).status 0 = 0x17 ∧ 2047 - ringFill 0 0 = 2047 ∧ 2047 - ringFill 1 0 = 0
      ∧ ((inStatus 0x17 [.flag false]).answerAt 0).isTrue = false
      ∧ ((inStatus 0x17 [.flag true, .wouldBlock]).answerAt 0).isTrue = true
      ∧ ((inStatus 0x17 [.flag true, .wouldBlock]).answerAt 1).asBytes 2047 = none
      ∧ ((inStatus 0x17 [.flag true, .bytes [1]]).answerAt 1).asBytes 2047 = some [1] := by decide
theorem witness_PollPeerClosed :
    ((inStatus 0x17 [.flag true, .bytes []]).sock 0).handle = some 11
      ∧ ((inStatus 0x17 [.flag true, .bytes []]).sock 0).connecting = false
      ∧ (inStatus 0x17 [.flag true, .bytes []]).status 0 = 0x17
      ∧ ((inStatus 0x17 [.flag true, .bytes []]).answerAt 0).isTrue = true
      ∧ 0 < 2047 - ringFill open0.rxHead open0.rxTail ∧ 0 < 2047 - ringFill 0 2046
      ∧ ((inStatus 0x17 [.flag true, .bytes []]).answerAt 1).asBytes 2047 = some [] := by decide
/-- An empty and an almost full ring. -/
theorem witness_StagingRing :
    0 < 2048 ∧ 2047 < 2048 ∧ [(1 : Byte)].length ≤ 2047 - ringFill 2047 2047
      ∧ [(1 : Byte)].length ≤ 2047 - ringFill 0 2046 ∧ ([] : List Byte).length ≤ 2047 - ringFill 0 2047 := by decide
theorem witness_PollAccept :
    ((inStatus 0x14 []).sock 0).handle = some 11 ∧ ((inStatus 0x14 []).sock 0).connecting = false
      ∧ (inStatus 0x14 []).status 0 = 0x14 ∧ ((inStatus 0x14 [.flag false]).answerAt 0).isTrue = false
      ∧ ((inStatus 0x14 [.flag true, .fail]).answerAt 0).isTrue = true
      ∧ ((inStatus 0x14 [.flag true, .fail]).answerAt 1).asHandle (inStatus 0x14 []).liveHandles = none
      ∧ ((inStatus 0x14 [.flag true, .handle 15]).answerAt 1).asHandle (inStatus 0x14 []).liveHandles = some 15 := by
  decide
theorem witness_PollVirtualTcp :
    State.reset.vnetScript = [] ∧ State.reset.venv.handle = none
      ∧ 4096 < ({ Sock.reset with rxTail := 4094 } : Sock).rxTail + [(7 : Byte)].length + 2 := by decide
theorem witness_InjectedFramePrefix :
    ({ Sock.reset with rxTail := 0 } : Sock).rxTail + ([] : Frame).length + 2 ≤ 4096
      ∧ ({ Sock.reset with rxTail := 4093 } : Sock).rxTail + [(7 : Byte)].length + 2 ≤ 4096 := by decide
theorem witness_PiaSelect : State.reset.params.rsMap = PiaMap.default := rfl
theorem witness_OraDrains :
    let s := { withPia 0 0 4 0 with
      mouse := { State.reset.mouse with dx := 1, dy := -2 }, pending := List.replicate 2 (Request.bus 0x80000) ++ [] }
    s.params.rsMap = PiaMap.default ∧ s.pia.cra.getLsbD 2 = true
      ∧ s.pending = List.replicate 2 (Request.bus 0x80000) ++ [] ∧ s.mouse.dx.natAbs ≤ 2 ∧ s.mouse.dy.natAbs ≤ 2
      ∧ s.mouse.dx.natAbs ≤ 1 ∧ ¬ s.mouse.dy.natAbs ≤ 1 := by decide
/-- The slots at the ends of 1..7 and beside them. -/
theorem witness_SlotCalls :
    (1 : Int) ≤ 1 ∧ (7 : Int) ≤ 7 ∧ (0 : Int) < 1 ∧ (7 : Int) < 8 ∧ State.reset.started = false
      ∧ { State.reset with started := true }.started = true ∧ State.reset.params.mouseSlot ≠ some (7 : Int).toNat
      ∧ State.reset.params.u2Slot ≠ some (1 : Int).toNat
      ∧ (State.reset.storeSlot .mouse 7).params.mouseSlot = some (7 : Int).toNat
      ∧ (State.reset.storeSlot .uthernet2 1).params.u2Slot = some (1 : Int).toNat := by decide
theorem witness_ArpReply :
    42 ≤ (arpRequest 0xC0A84101).length ∧ etherType (arpRequest 0xC0A84101) = 0x0806
      ∧ word16At (arpRequest 0xC0A84101) 20 = 1 ∧ word32At (arpRequest 0xC0A84101) 38 = 0xC0A84101
      ∧ word32At (arpRequest 0xC0A84102) 38 ≠ 0xC0A84101 := by decide
/-- The cells of a byte string from an address on. -/
def cellsFrom : Nat → List Byte → Memory
  | _, [] => []
  | a, b :: t => (a, b) :: cellsFrom (a + 1) t
/-- A DISCOVER or a REQUEST in the TX ring of socket 0, the DHCP state `d`. -/
def dhcpState (d : DhcpState) (t : Byte) : State :=
  { macraw0 Sock.reset ((0x424, 0x41) :: (0x425, 0x1E) :: cellsFrom 0x4000 (dhcpFrame t)) [.responder choices] with
    venv := { State.reset.venv with dhcpState := d, dhcpXid := 0xDEADBEEF, clientMac := 0x080007123456 } }
theorem witness_txData_discover : (dhcpState .idle 1).txData 0 = dhcpFrame 1 := by decide +kernel
theorem witness_txData_request : (dhcpState .offerSent 3).txData 0 = dhcpFrame 3 := by decide +kernel
theorem witness_DhcpLease :
    (dhcpState .idle 1).status 0 = 0x42 ∧ (dhcpState .idle 1).txLen 0 = 286 ∧ (dhcpState .offerSent 3).txLen 0 = 286
      ∧ (dhcpState .offerSent 3).status 0 = 0x42 ∧ (dhcpState .idle 1).vnetScript = [.responder choices]
      ∧ etherType (dhcpFrame 1) = 0x0800 ∧ ipProto (dhcpFrame 1) = 17 ∧ dhcpMessage choices (dhcpFrame 1) = some (42, 1)
      ∧ etherType (dhcpFrame 3) = 0x0800 ∧ ipProto (dhcpFrame 3) = 17 ∧ dhcpMessage choices (dhcpFrame 3) = some (42, 3)
      ∧ word32At (dhcpFrame 3) 46 = (dhcpState .offerSent 3).venv.dhcpXid
      ∧ macAt (dhcpFrame 3) 70 = (dhcpState .offerSent 3).venv.clientMac := by decide +kernel
theorem witness_DhcpNeverGoesBack :
    (dhcpState .idle 1).responders
      ∧ (after (dhcpState .idle 1) (.bus 0x00700)).map State.resets = some (dhcpState .idle 1).resets
      ∧ (after (dhcpState .idle 1) (.command 0 0x20)).map (fun t => (t.resets, t.venv.dhcpState))
        = some ((dhcpState .idle 1).resets, .offerSent) :=
  ⟨fun _ h => ⟨choices, List.mem_singleton.mp h⟩, by decide +kernel, by decide +kernel⟩
theorem witness_TcpSyn :
    34 ≤ synFrame.length ∧ etherType synFrame = 0x0800 ∧ ipProto synFrame = 6
      ∧ (∃ g, tcpSegmentOf choices synFrame = some g ∧ thirdOctet g.dstIp = 65 ∧ g.has 0x02 = true ∧ g.has 0x10 = false)
      ∧ choices.dropSynOptions = false
      ∧ ({ State.reset with hostScript := [.handle 11] }.answerAt 0).asHandle State.reset.dropFlow.liveHandles = some 11
      ∧ ({ State.reset with hostScript := [.fail] }.answerAt 0).asHandle State.reset.dropFlow.liveHandles = none :=
  ⟨by decide, by decide, by decide, ⟨_, rfl, by decide, by decide, by decide⟩, rfl, rfl, rfl⟩
/-- A sound state with an access to come. -/
def pollable : State := (inStatus 0x17 [.flag true, .bytes [1]]).withRequest (.bus 0x20402)
theorem pollable_sound : pollable.Sound :=
  ⟨⟨rfl, rfl, fun n => by fin_cases n <;> rfl⟩,
    ⟨fun n => by fin_cases n <;> decide, by decide⟩, ⟨by decide, by decide⟩,
    fun n => by fin_cases n <;> simp [Sock.sane, pollable, inStatus, withHost, open0, Sock.reset, State.sock,
      State.withRequest, State.setSock, Sockets.set, Sockets.get, State.reset],
    ⟨by decide, by decide⟩, ⟨(fun _ h => by cases h), (fun _ h => by cases h), fun _ h => by cases h⟩⟩
theorem witness_StepKeepsSound : pollable.Sound ∧ ∃ t, step pollable = .next t := ⟨pollable_sound, _, rfl⟩
theorem witness_StepKeepsStatusAgrees :
    pollable.Sound ∧ pollable.StatusAgrees ∧ pollable.pending = [.bus 0x20402]
      ∧ decode (pollable.cond 0) (.bus 0x20402) = .ok (.u2WrMode 2)
      ∧ (∀ n : SockId, ¬ storesAt pollable (snSr n) (.u2WrMode 2)) ∧ ∃ t, step pollable = .next t := by
  refine ⟨pollable_sound, fun n => ?_, rfl, by decide, fun n h => ?_, _, rfl⟩
  · fin_cases n <;> exact ⟨by decide, by decide⟩
  · rcases h with ⟨v, h, -⟩ | ⟨b, v, h, -⟩ <;> cases h
theorem witness_CardsApart :
    isU2 .u2RdData = true ∧ (∃ t, exec .u2RdData State.reset = .next t)
      ∧ isPia .piaRdOra = true ∧ ∃ t, exec .piaRdOra State.reset = .next t := ⟨rfl, ⟨_, rfl⟩, rfl, _, rfl⟩
theorem witness_SocketsApart :
    pollable.Sound ∧ actsOn 0 (.pollSocket 0) ∧ ∃ t, exec (.pollSocket 0) pollable = .next t :=
  ⟨pollable_sound, rfl, _, rfl⟩

end Sys2Proof.Tests
end

section
/-! The step as equations, one for each thing the fetch can find (00 R3, 20 R105). -/

namespace Sys2Proof.Machine

variable {s : State} {r : Request} {rest : List Request}

/-! ## What a step does -/

theorem step_of_pending_nil (hp : s.pending = []) : step s = .next s := by
  simpa [hp] using step_cases s

theorem step_of_decode_ok {i : Instr} (hp : s.pending = r :: rest) (hd : decode (s.cond r.socket) r = .ok i) :
    step s = exec i (s.take r rest) := by
  simpa [hp, hd] using step_cases s

theorem step_of_decode_error {e : DecodeError} (hp : s.pending = r :: rest)
    (hd : decode (s.cond r.socket) r = .error e) : step s = .refused (.badRequest e) := by
  simpa [hp, hd] using step_cases s

/-! ## A request of the opcode table -/

@[simp] theorem withRequest_cond (n : SockId) : (s.withRequest r).cond n = s.cond n := rfl

theorem take_withRequest : (s.withRequest r).take r s.pending = { s with started := s.started || r.isAccess } := rfl

/-- Every format of the table's words is an access to a card, so that running one starts the emulation
(log 3, 93 U12). -/
theorem ofTableWord_isAccess (nbits w : Nat) : (Request.ofTableWord nbits w).isAccess = true := by
  unfold Request.ofTableWord
  split
  · rfl
  · split <;> rfl

theorem step_withFetchWord {nbits w : Nat} {i : Instr}
    (hd : decode (s.cond (Request.ofTableWord nbits w).socket) (Request.ofTableWord nbits w) = .ok i) :
    step (s.withFetchWord nbits w) = exec i { s with started := true } := by
  unfold State.withFetchWord
  rw [step_of_decode_ok (withRequest_pending s _) (by rwa [withRequest_cond]), take_withRequest,
    ofTableWord_isAccess, Bool.or_true]

/-- Settles O6: one equation of the step for each thing the fetch can find. -/
theorem stepRunsTheRequest : Obligations.StepRunsTheRequest := by
  intro s
  exact ⟨step_of_pending_nil, fun _ _ _ => step_of_decode_ok, fun _ _ _ => step_of_decode_error,
    fun _ _ _ => step_withFetchWord⟩

end Sys2Proof.Machine
end

section
/-! Status and handle of one socket in agreement (10 R77 I5, I6), and that every command and every poll of a socket keeps them so. -/

namespace Sys2Proof.Machine

/-! ## Agreement, socket by socket -/

/-- The status and the handle of socket `n` agree: `State.StatusAgrees` at one socket. -/
def State.AgreesAt (s : State) (n : SockId) : Prop :=
  ((s.status n = srClosed ∨ s.status n = srCloseWait ∨ s.status n = srMacraw) → (s.sock n).handle = none)
    ∧ ((s.sock n).connecting = true → s.status n = srSynsent)

theorem statusAgrees_iff (s : State) : s.StatusAgrees ↔ ∀ n, s.AgreesAt n := Iff.rfl

/-- A status whose socket may own a handle, with no connect in progress. -/
abbrev allowsHandle (v : Byte) : Prop := v ≠ srClosed ∧ v ≠ srCloseWait ∧ v ≠ srMacraw

variable {s t : State} {n : SockId}

/-- Agreement depends on the status, the handle and the connecting flag alone. -/
theorem State.AgreesAt.congr (h : s.AgreesAt n) (hs : t.status n = s.status n)
    (hh : (t.sock n).handle = (s.sock n).handle) (hc : (t.sock n).connecting = (s.sock n).connecting) :
    t.AgreesAt n := by
  unfold State.AgreesAt
  rw [hs, hh, hc]
  exact h

/-- A socket that has been released agrees with every status. -/
theorem agreesAt_of_released (hh : (t.sock n).handle = none) (hc : (t.sock n).connecting = false) :
    t.AgreesAt n := ⟨fun _ => hh, by simp [hc]⟩

/-- A socket with no connect in progress agrees with every status that allows a handle. -/
theorem agreesAt_of_allowsHandle (hv : allowsHandle (t.status n)) (hc : (t.sock n).connecting = false) :
    t.AgreesAt n := ⟨fun h => by simp [allowsHandle] at hv; tauto, by simp [hc]⟩

/-- No connect is in progress where the status is not SYNSENT (10 R77 I6). -/
theorem State.AgreesAt.connecting_eq_false (h : s.AgreesAt n) (hs : s.status n ≠ srSynsent) :
    (s.sock n).connecting = false := by
  by_contra hc
  exact hs (h.2 (by simpa using hc))

/-- A released socket given any status: the end of every failed, closing or closed connection. -/
theorem agreesAt_release_setStatus (s : State) (n : SockId) (v : Byte) :
    ((s.release n).setStatus n v).AgreesAt n :=
  agreesAt_of_released (by simp) (by simp [sock_release])

/-- A new status that allows a handle, where no connect is in progress. -/
theorem agreesAt_setStatus {v : Byte} (hv : allowsHandle v) (hc : (s.sock n).connecting = false) :
    (s.setStatus n v).AgreesAt n :=
  agreesAt_of_allowsHandle (by simpa [status_setStatus] using hv) (by simpa using hc)

/-! ## What a command or a poll of one socket does -/

/-- Everything a command or a poll of socket `n` can do, agreement included. -/
structure SocketStep (n : SockId) (s t : State) : Prop extends Keeps n s t where
  agrees : s.AgreesAt n → t.AgreesAt n

theorem SocketStep.refl (n : SockId) (s : State) : SocketStep n s s := ⟨.refl n s, id⟩

theorem SocketStep.trans {u : State} (h : SocketStep n s t) (k : SocketStep n t u) : SocketStep n s u :=
  ⟨h.toKeeps.trans k.toKeeps, fun a => k.agrees (h.agrees a)⟩

/-- The status byte of a socket is nothing that another socket's operations reach. -/
theorem not_touched_snSr {m : SockId} (h : m ≠ n) : ¬ touched n (snSr m) := by
  have : m.val ≠ n.val := fun e => h (Fin.ext e)
  unfold touched leaseByte snSr snTxRd snRxRd sockBase
  omega

/-- Agreement at one socket is agreement at all of them, where the others keep theirs. -/
theorem SocketStep.statusAgrees (k : SocketStep n s t) (h : s.StatusAgrees) : t.StatusAgrees := by
  refine (statusAgrees_iff t).mpr fun m => ?_
  by_cases e : m = n
  · subst e; exact k.agrees (h m)
  · exact State.AgreesAt.congr (h m) (k.image _ (not_touched_snSr e)) (by rw [k.others m e])
      (by rw [k.others m e])

variable (s n)

/-! ## The virtual network layer -/

theorem socketStep_virtualTcpPoll : SocketStep 0 s s.virtualTcpPoll := by
  obtain ⟨-, -, -, hh, hc⟩ := virtualTcpPoll_fill s
  exact ⟨keeps_virtualTcpPoll s, fun a => a.congr (by simp [State.status, State.peek, virtualTcpPoll_mem]) hh hc⟩

theorem socketStep_vnetFrame (f : Frame) : SocketStep n s (s.vnetFrame f).2 := by
  obtain ⟨k, -⟩ := vnetFrame_spec s f
  have hsr : ¬ leaseByte (snSr n) := by unfold leaseByte snSr sockBase; omega
  exact ⟨k.keeps n, fun a => a.congr (k.image _ hsr) (by simp [State.sock, k.socks])
    (by simp [State.sock, k.socks])⟩

theorem socketStep_rxInjectAll (l : List Frame) : SocketStep n s (s.rxInjectAll n l) := by
  obtain ⟨-, -, -, hh, hc⟩ := rxInjectAll_fill s n l
  exact ⟨keeps_rxInjectAll s n l, fun a => a.congr (by simp [State.status]) hh hc⟩

/-! ## The commands -/

theorem socketStep_openHost (call : EnvCall) {v : Byte} (hv : allowsHandle v) :
    SocketStep n s (s.openHost n call v) := by
  refine ⟨keeps_openHost s n call v, fun _ => ?_⟩
  unfold State.openHost
  dsimp only
  split
  · exact agreesAt_of_released (by simp) (by simp [sock_release])
  · exact agreesAt_setStatus hv (by simp [sock_setHandle, sock_release])

theorem socketStep_openMacraw : SocketStep 0 s s.openMacraw :=
  ⟨keeps_openMacraw s, fun _ => agreesAt_of_released (by simp [State.openMacraw, sock_setMacraw])
    (by simp [State.openMacraw, sock_setMacraw, sock_release])⟩

theorem socketStep_listen : SocketStep n s (s.listen n) := by
  refine ⟨keeps_listen s n, fun a => ?_⟩
  unfold State.listen
  split
  · exact a
  · next hi =>
    have hc : (s.sock n).connecting = false := a.connecting_eq_false (by rw [not_not.mp hi]; decide)
    have fails : ∀ u : State, u.AgreesAt n →
        (if u.nextAnswer.1.isClose then (u.nextAnswer.2.release n).setStatus n srClosed
          else u.nextAnswer.2).AgreesAt n := by
      intro u hu
      split
      · exact agreesAt_release_setStatus _ n _
      · exact hu.congr (by simp [State.status]) (by simp) (by simp)
    cases (s.sock n).handle with
    | none => exact fails s a
    | some h =>
      dsimp only
      split
      · exact agreesAt_setStatus (by decide) (by simpa using hc)
      · exact fails _ (a.congr (by simp [State.status]) (by simp) (by simp))

theorem socketStep_connect : SocketStep n s (s.connect n) := by
  refine ⟨keeps_connect s n, fun a => ?_⟩
  unfold State.connect
  split
  · exact a
  · next hi =>
    have hc : (s.sock n).connecting = false := a.connecting_eq_false (by rw [not_not.mp hi]; decide)
    cases (s.sock n).handle with
    | none => exact agreesAt_release_setStatus s n _
    | some h =>
      dsimp only
      split
      · exact agreesAt_setStatus (by decide) (by simpa using hc)
      · have hs : ∀ u : State, ((u.setStatus n srSynsent).setConnecting n true).status n = srSynsent :=
          fun u => by simp [State.status, State.setStatus]
        exact ⟨fun h => absurd h (by rw [hs]; decide), fun _ => hs _⟩
      · exact agreesAt_release_setStatus _ n _

theorem socketStep_closeSocket : SocketStep n s (s.closeSocket n) :=
  ⟨keeps_closeSocket s n, fun _ =>
    agreesAt_of_released (by simp [State.closeSocket, sock_setMacraw, sock_setFill])
      (by simp [State.closeSocket, sock_setMacraw, sock_setFill, sock_release])⟩

theorem put16_status {a : Nat} (v : Word16) (h : snSr n ≠ a) (h1 : snSr n ≠ a + 1) :
    (s.put16 a v).status n = s.status n := by
  simp [State.status, peek_put16, h, h1]

theorem socketStep_put16_txRd (v : Word16) : SocketStep n s (s.put16 (snTxRd n) v) :=
  ⟨keeps_put16_txRd s n v, fun a => a.congr
    (put16_status s n v (by unfold snSr snTxRd; omega) (by unfold snSr snTxRd; omega)) (by simp) (by simp)⟩

theorem socketStep_ask (c : EnvCall) : SocketStep n s (s.ask c).2 :=
  ⟨keeps_ask s n c, fun a => a.congr (by simp [State.status]) (by simp) (by simp)⟩

theorem socketStep_sendTcp : SocketStep n s (s.sendTcp n) := by
  unfold State.sendTcp
  dsimp only
  split
  · exact .refl n s
  · split
    · exact socketStep_put16_txRd s n _
    · split
      · exact socketStep_put16_txRd s n _
      · exact (socketStep_ask s n _).trans (socketStep_put16_txRd _ n _)

theorem socketStep_sendMacraw : SocketStep n s (s.sendMacraw n) := by
  have k := socketStep_put16_txRd s n (s.get16 (snTxWr n))
  unfold State.sendMacraw
  split
  · exact .refl n s
  · dsimp only
    split
    · exact k
    · exact (k.trans (socketStep_vnetFrame _ n _)).trans (socketStep_rxInjectAll _ n _)

theorem recv_socketStep {t : State} (h : s.recv n = .ok t) : SocketStep n s t := by
  refine ⟨recv_spec s n t h, fun a => ?_⟩
  unfold State.recv at h
  split at h
  · cases h
  · split at h
    · cases h
    · dsimp only at h
      generalize (if (s.sock n).macraw = true then _ else _ : Nat) = d at h
      split at h <;> cases h
      · exact a.congr (put16_status _ n _ (by unfold snSr snRxRd; omega) (by unfold snSr snRxRd; omega))
          (by simp [sock_setFill]) (by simp [sock_setFill])
      · exact a.congr (by simp [State.status]) (by simp [sock_setFill]) (by simp [sock_setFill])

/-- Everything a command that is not refused can do, agreement included (41 R200). -/
theorem dispatchCommand_socketStep {c : Byte} {t : State} (h : s.dispatchCommand n c = .ok t) :
    SocketStep n s t := by
  unfold State.dispatchCommand at h
  split_ifs at h
  · split at h <;> cases h
    · exact socketStep_openHost s n _ (by decide)
    · exact socketStep_openHost s n _ (by decide)
    · next e =>
      have hn : n = 0 := by unfold openKindOf at e; split_ifs at e with _ _ h3; exact h3.2
      exact hn ▸ socketStep_openMacraw s
    · exact .refl n s
  · cases h; exact socketStep_listen s n
  · cases h; exact socketStep_connect s n
  · cases h; exact socketStep_closeSocket s n
  · cases h; exact socketStep_closeSocket s n
  · cases h; exact socketStep_sendMacraw s n
  · cases h; exact socketStep_sendTcp s n
  · exact recv_socketStep s n h
  · cases h; exact .refl n s

/-! ## The polls -/

theorem socketStep_pollConnect : SocketStep n s (s.pollConnect n) := by
  refine ⟨keeps_pollConnect s n, fun a => ?_⟩
  unfold State.pollConnect
  dsimp only
  split
  · exact a
  · split_ifs
    · exact a
    · exact a.congr (by simp [State.status]) (by simp) (by simp)
    · exact agreesAt_setStatus (by decide) (by simp [sock_setConnecting])
    · exact agreesAt_release_setStatus _ n _

theorem socketStep_pollReceive : SocketStep n s (s.pollReceive n) := by
  refine ⟨keeps_pollReceive s n, fun a => ?_⟩
  unfold State.pollReceive
  dsimp only
  split
  · exact a
  · split_ifs
    · exact a
    · exact a.congr (by simp [State.status]) (by simp) (by simp)
    · exact a.congr (by simp [State.status]) (by simp) (by simp)
    · split
      · exact a.congr (by simp [State.status]) (by simp) (by simp)
      · exact agreesAt_release_setStatus _ n _
      · exact a.congr (by simp [State.status]) (by simp [sock_stage]) (by simp [sock_stage])

theorem socketStep_pollAccept : SocketStep n s (s.pollAccept n) := by
  refine ⟨keeps_pollAccept s n, fun a => ?_⟩
  unfold State.pollAccept
  dsimp only
  split
  · exact a
  · split_ifs with hl
    · exact a
    · exact a.congr (by simp [State.status]) (by simp) (by simp)
    · have hc : (s.sock n).connecting = false := a.connecting_eq_false (by rw [not_not.mp hl]; decide)
      split
      · exact a.congr (by simp [State.status]) (by simp) (by simp)
      · exact agreesAt_setStatus (by decide) (by simpa [sock_setHandle] using hc)

theorem socketStep_socketPoll : SocketStep n s (s.socketPoll n) :=
  ((socketStep_pollConnect s n).trans (socketStep_pollReceive _ n)).trans (socketStep_pollAccept _ n)

end Sys2Proof.Machine
end

section
/-! What a decoded request satisfies: the operation that the decoder gives is well formed (30 R122 to R133, R142). -/

namespace Sys2Proof

theorem decodeU2Read_wellFormed (off : Byte) : WellFormed (decodeU2Read off) = true := by
  unfold decodeU2Read
  split_ifs <;> rfl

theorem decodeU2Write_wellFormed (off val : Byte) : WellFormed (decodeU2Write off val) = true := by
  unfold decodeU2Write
  split_ifs <;> rfl

theorem decodePiaRead_wellFormed (c : Cond) (off : Byte) : WellFormed (decodePiaRead c off) = true := by
  unfold decodePiaRead
  cases c.dataA <;> cases c.dataB
  all_goals
    split
    · split <;> rfl
    · split <;> rfl

theorem decodePiaWrite_wellFormed (c : Cond) (off val : Byte) : WellFormed (decodePiaWrite c off val) = true := by
  unfold decodePiaWrite
  cases c.dataA <;> cases c.dataB
  all_goals
    split
    · split <;> rfl
    · split <;> rfl

theorem decodeAccess_wellFormed (c : Cond) (a : Access) : WellFormed (decodeAccess c a) = true := by
  unfold decodeAccess
  split
  · rfl
  · rfl
  · exact decodeU2Read_wellFormed _
  · exact decodeU2Write_wellFormed _ _
  · rfl
  · rfl
  · exact decodePiaRead_wellFormed _ _
  · exact decodePiaWrite_wellFormed _ _ _

/-- The offsets of Sn_TX_FSR and Sn_RX_RSR are two pairs of addresses. -/
theorem computedOffset_iff (o : Byte) :
    WellFormed.computedOffset o = true ↔ o.toNat / 2 = 0x10 ∨ o.toNat / 2 = 0x13 := by
  revert o
  decide

theorem decodeImageRead_wellFormed (a : BitVec 16) : WellFormed (decodeImageRead a) = true := by
  unfold decodeImageRead
  dsimp only
  split_ifs with h1 h2 h3 h4 h5
  · rfl
  · rfl
  · rfl
  · have hc := computedOffset_iff (BitVec.ofNat 8 a.toNat)
    rw [BitVec.toNat_ofNat] at hc
    have : ¬ WellFormed.computedOffset (BitVec.ofNat 8 a.toNat) = true := by rw [hc]; omega
    simpa [WellFormed] using this
  · rfl
  · simp only [WellFormed, WellFormed.plainRead, BitVec.toNat_ofNat, Bool.and_eq_true, Bool.not_eq_true',
      decide_eq_false_iff_not, Bool.and_eq_false_iff]
    omega

theorem decodeImageWrite_wellFormed (a : BitVec 16) (v : Byte) : WellFormed (decodeImageWrite a v) = true := by
  unfold decodeImageWrite
  dsimp only
  split_ifs with h1 h2 h3
  · rfl
  · rfl
  · rfl
  · simp only [WellFormed, WellFormed.plainWrite, BitVec.toNat_ofNat, Bool.and_eq_true, Bool.not_eq_true',
      Bool.or_eq_false_iff, beq_eq_false_iff_ne]
    omega

theorem decodeCommand_wellFormed (c : Cond) (n : SockId) (b : Byte) :
    WellFormed (decodeCommand c n b) = true := by
  unfold decodeCommand
  split_ifs with h1 h2 h3 h4 h5 h6 _ h7
  · split <;> rfl
  any_goals rfl
  simpa [WellFormed, WellFormed.listedCommand, and_assoc] using ⟨h1, h2, h3, h4, h5, h6, h7⟩

/-- What the decoder gives is well formed. -/
theorem decode_wellFormed {c : Cond} {r : Request} {i : Instr} (h : decode c r = .ok i) :
    WellFormed i = true := by
  cases r with
  | bus w =>
    simp only [decode] at h
    split at h <;> cases h
    exact decodeAccess_wellFormed _ _
  | imageRead a => cases h; exact decodeImageRead_wellFormed a
  | imageWrite a v => cases h; exact decodeImageWrite_wellFormed a v
  | command n b => cases h; exact decodeCommand_wellFormed c n b
  | callU2SetSlot x => simp only [decode] at h; split at h <;> cases h; assumption
  | callMouseSetSlot x => simp only [decode] at h; split at h <;> cases h; assumption
  | pollSocket | pollVtcp | callSetPosition | callSetButton | callGetState => cases h; rfl

/-- A plain write is to no mode byte and no command register (30 R133). -/
theorem plainWrite_iff (a : BitVec 15) :
    WellFormed.plainWrite a = true ↔ a.toNat ≠ 0 ∧ ∀ n, a.toNat ≠ Machine.snCr n := by
  simp [WellFormed.plainWrite, Fin.forall_fin_succ, Machine.snCr, Machine.sockBase, and_assoc]

end Sys2Proof
end

section
/-! Everything that one operation can do to the state, said once over the shared operations, and the invariants of 10 R77 derived from it. -/

namespace Sys2Proof.Machine

/-! ## Outcomes -/

theorem outcome_eq_next_iff {e : Except Refusal State} {t : State} : outcome e = .next t ↔ e = .ok t := by
  cases e <;> simp [outcome]

theorem slotOutcome_eq_next_iff {e : Except Refusal State} {t : State} : slotOutcome e = .next t ↔ e = .ok t := by
  cases e <;> simp [slotOutcome]

/-- A read of a socket's page that completes leaves the polls' state, with a byte delivered (40 R172). -/
theorem readOutcome_readPage {s t : State} {n : SockId} {o : Byte} (h : readOutcome (s.readPage n o) = .next t) :
    ∃ b, t = (s.pagePoll n).deliver b := by
  unfold State.readPage at h
  split at h
  · cases h; exact ⟨_, rfl⟩
  · cases h

theorem writeCommand_eq_ok_iff {s t : State} {n : SockId} {v : Byte} :
    s.writeCommand n v = .ok t ↔ ∃ u, s.dispatchCommand n v = .ok u ∧ t = u.poke (snCr n) 0 := by
  unfold State.writeCommand
  cases s.dispatchCommand n v <;> simp [eq_comm]

/-! ## The operations that reach neither the image nor the sockets -/

/-- From `s` to `t` nothing has changed that an invariant speaks of, but for the PIA's control registers,
whose bits 7 and 6 stay 0; and the pointer stands. -/
structure Quiet (s t : State) : Prop where
  mem : t.mem = s.mem
  socks : t.socks = s.socks
  venv : t.venv = s.venv
  mouseRom : t.mouseRom = s.mouseRom
  params : t.params = s.params
  addrPtr : t.addrPtr = s.addrPtr
  controls : s.ControlsMasked → t.ControlsMasked

namespace Quiet

variable (s : State)

theorem refl : Quiet s s := ⟨rfl, rfl, rfl, rfl, rfl, rfl, id⟩

theorem deliver (b : Byte) : Quiet s (s.deliver b) := ⟨rfl, rfl, rfl, rfl, rfl, rfl, id⟩

/-- A change of the PIA that keeps the unwritable bits of both control registers (43 R278, R281). -/
theorem setPia {p : Pia} (h : s.pia.cra &&& 0xC0 = 0 ∧ s.pia.crb &&& 0xC0 = 0 →
    p.cra &&& 0xC0 = 0 ∧ p.crb &&& 0xC0 = 0) : Quiet s { s with pia := p } :=
  ⟨rfl, rfl, rfl, rfl, rfl, rfl, h⟩

theorem setMouse (m : Mouse) : Quiet s { s with mouse := m } := ⟨rfl, rfl, rfl, rfl, rfl, rfl, id⟩

theorem setReport (r : Option MouseReport) : Quiet s { s with report := r } :=
  ⟨rfl, rfl, rfl, rfl, rfl, rfl, id⟩

variable {s}

theorem trans {t u : State} (h : Quiet s t) (k : Quiet t u) : Quiet s u :=
  ⟨k.mem.trans h.mem, k.socks.trans h.socks, k.venv.trans h.venv, k.mouseRom.trans h.mouseRom,
    k.params.trans h.params, k.addrPtr.trans h.addrPtr, fun c => k.controls (h.controls c)⟩

end Quiet

/-- What a control register stores has bits 7 and 6 clear (43 R278, R281). -/
theorem masked_control (v : Byte) : (v &&& 0x3F) &&& 0xC0 = 0 := by
  rw [BitVec.and_assoc]
  exact BitVec.and_zero

/-! ## What one operation can do -/

/-- Everything that an operation which completes can do to the state, by the shared operation that does
it. -/
inductive Effect (s : State) : Instr → State → Prop
  /-- Nothing that reaches the image or a socket. -/
  | quiet {i t} (q : Quiet s t) : Effect s i t
  /-- A write of the pointer's high byte (40 R163). -/
  | pointerHigh (v) : Effect s (.u2WrArh v) { s with addrPtr := word16 v (loByte s.addrPtr) }
  /-- A write of the pointer's low byte (40 R164). -/
  | pointerLow (v) : Effect s (.u2WrArl v) { s with addrPtr := word16 (hiByte s.addrPtr) v }
  /-- A mode write, from either path (40 R162, R182). -/
  | mode {i} (v) : Effect s i (s.writeMode v)
  /-- A Data read (40 R168). -/
  | dataRead {r} (e : s.memRead s.addrPtr = .ok r) : Effect s .u2RdData (r.2.postIncrement.deliver r.1)
  /-- A Data write (40 R176). -/
  | dataWrite {v u} (e : s.memWrite s.addrPtr v = .ok u) : Effect s (.u2WrData v) u.postIncrement
  /-- A read of a socket's page (40 R172). -/
  | page {i} (n b) : Effect s i ((s.pagePoll n).deliver b)
  /-- A write of a command register (40 R183). -/
  | commandRegister {n v u} (e : s.dispatchCommand n v = .ok u) : Effect s (.imgWrSnCr n v) (u.poke (snCr n) 0)
  /-- A byte stored in the image (40 R184). -/
  | store (a v) : Effect s (.imgWrPlain a v) (s.poke a.toNat v)
  /-- A command or a poll of one socket on its own (41 R200, 42 R240). -/
  | socket {i t n} (k : SocketStep n s t) : Effect s i t
  /-- A slot call (43 R290). -/
  | slot {i card x t} (e : s.setSlot card x = .ok t) : Effect s i t

/-- An operation that completes does one of these. -/
theorem exec_effect {i : Instr} {s t : State} (h : exec i s = .next t) : Effect s i t := by
  cases i with
  | u2WrRom | u2WrUnassignedLow | u2WrUnassignedHigh | imgWrInvalid | cmdOpenOther | cmdUnlisted | piaWrRom
  | piaWrUnassignedLow | piaWrUnassignedHigh => cases h; exact .quiet (.refl s)
  | u2RdRom | u2RdMode | u2RdArh | u2RdArl | u2RdUnassignedLow | u2RdUnassignedHigh | imgRdInvalid
  | imgRdRxwin | imgRdPlain | piaRdRom | piaRdDdra | piaRdCra | piaRdOrb | piaRdDdrb | piaRdCrb
  | piaRdUnassignedLow | piaRdUnassignedHigh => cases h; exact .quiet (.deliver s _)
  | piaWrOra | piaWrDdra | piaWrOrb | piaWrDdrb => cases h; exact .quiet (.setPia s id)
  | piaWrCra v => cases h; exact .quiet (.setPia s fun c => ⟨masked_control v, c.2⟩)
  | piaWrCrb v => cases h; exact .quiet (.setPia s fun c => ⟨c.1, masked_control v⟩)
  | piaRdOra => cases h; exact .quiet ((Quiet.setMouse s _).trans (.deliver _ _))
  | mouseSetPosition | mouseSetButton => cases h; exact .quiet (.setMouse s _)
  | mouseGetState => cases h; exact .quiet (.setReport s _)
  | u2SetSlot | mouseSetSlot => exact .slot (slotOutcome_eq_next_iff.mp h)
  | u2WrArh v => cases h; exact .pointerHigh v
  | u2WrArl v => cases h; exact .pointerLow v
  | u2WrMode v | imgWrMode v => cases h; exact .mode v
  | u2RdData =>
    simp only [exec, execU2RdData] at h
    split at h <;> cases h
    exact .dataRead ‹_›
  | u2WrData v =>
    simp only [exec, execU2WrData] at h
    split at h <;> cases h
    exact .dataWrite ‹_›
  | imgRdTxFsr n | imgRdRxRsr n | imgRdSockreg n =>
    obtain ⟨b, rfl⟩ := readOutcome_readPage h
    exact .page n b
  | imgWrSnCr n v =>
    obtain ⟨u, e, rfl⟩ := writeCommand_eq_ok_iff.mp (outcome_eq_next_iff.mp h)
    exact .commandRegister e
  | imgWrPlain a v => cases h; exact .store a v
  | cmdOpenTcp n => cases h; exact .socket (socketStep_openHost s n _ (by decide))
  | cmdOpenUdp n => cases h; exact .socket (socketStep_openHost s n _ (by decide))
  | cmdOpenMacraw => cases h; exact .socket (socketStep_openMacraw s)
  | cmdListen n => cases h; exact .socket (socketStep_listen s n)
  | cmdConnect n => cases h; exact .socket (socketStep_connect s n)
  | cmdDiscon n | cmdClose n => cases h; exact .socket (socketStep_closeSocket s n)
  | cmdSendMacraw n => cases h; exact .socket (socketStep_sendMacraw s n)
  | cmdSendTcp n => cases h; exact .socket (socketStep_sendTcp s n)
  | cmdRecv n => exact .socket (recv_socketStep s n (outcome_eq_next_iff.mp h))
  | pollSocket n => cases h; exact .socket (socketStep_socketPoll s n)
  | pollVtcp => cases h; exact .socket (socketStep_virtualTcpPoll s)

/-! ## The invariants -/

theorem Quiet.sound {s t : State} (q : Quiet s t) (h : s.Sound) : t.Sound := by
  obtain ⟨hm, hr, hc, hk, ho, hs⟩ := h
  refine ⟨?_, ?_, q.controls hc, ?_, ?_, ?_⟩
  · simpa [State.MemoriesCanonical, State.sock, q.mem, q.mouseRom, q.socks] using hm
  · simpa [State.RegistersSettled, State.peek, q.mem] using hr
  · simpa [State.SocketsSane, State.sock, q.socks] using hk
  · simpa [State.HandlesOwned, State.liveHandles, q.venv, q.socks] using ho
  · simpa [State.SlotsLegal, q.params] using hs

theorem Quiet.statusAgrees {s t : State} (q : Quiet s t) (h : s.StatusAgrees) : t.StatusAgrees := fun n =>
  State.AgreesAt.congr (h n) (by simp [State.status, State.peek, q.mem]) (by simp [State.sock, q.socks])
    (by simp [State.sock, q.socks])

theorem State.Sound.socketsSane {s : State} (h : s.Sound) : s.SocketsSane := by
  obtain ⟨-, -, -, hk, -, -⟩ := h
  exact hk

/-- A command register takes the 0 that it always reads as (10 R77 I1). -/
theorem poke_snCr_sound {s : State} (n : SockId) (h : s.Sound) : (s.poke (snCr n) 0).Sound :=
  poke_sound s _ 0 h (by unfold snCr sockBase; omega) (by unfold snCr sockBase; omega) fun _ _ => rfl

/-- A well-formed operation keeps the invariants, whatever it does. -/
theorem Effect.sound {i : Instr} {s t : State} (e : Effect s i t) (hw : WellFormed i = true) (h : s.Sound) :
    t.Sound := by
  cases e with
  | quiet q => exact q.sound h
  | pointerHigh | pointerLow => exact h
  | mode v => exact writeMode_sound s v h
  | dataRead e => exact deliver_sound _ _ (postIncrement_sound _ (memRead_sound s _ _ h e))
  | dataWrite e => exact postIncrement_sound _ (memWrite_sound s _ _ _ h e)
  | page n b => exact deliver_sound _ b ((keeps_pagePoll s n (h.socketsSane n).1).sound h)
  | commandRegister e => exact poke_snCr_sound _ ((dispatchCommand_keeps s _ _ _ e).sound h)
  | store a v =>
    obtain ⟨h0, hc⟩ := (plainWrite_iff a).mp hw
    exact poke_sound s _ v h a.isLt (fun e => absurd e h0) fun n e => absurd e (hc n)
  | socket k => exact k.toKeeps.sound h
  | slot e => exact setSlot_sound s _ _ _ h e

/-- A store at any byte but a status keeps status and handle in agreement. -/
theorem poke_statusAgrees {s : State} {a : Nat} (v : Byte) (h : s.StatusAgrees) (ha : ∀ n, a ≠ snSr n) :
    (s.poke a v).StatusAgrees := fun n =>
  State.AgreesAt.congr (h n) (by simp [State.status, peek_poke, (ha n).symm]) (by simp) (by simp)

theorem poke_snCr_statusAgrees {s : State} (n : SockId) (h : s.StatusAgrees) :
    (s.poke (snCr n) 0).StatusAgrees :=
  poke_statusAgrees 0 h fun m => by unfold snCr snSr sockBase; omega

/-- After a reset every socket is closed and has no handle (70 R390). -/
theorem w5100Reset_statusAgrees (s : State) : s.w5100Reset.StatusAgrees := fun n =>
  agreesAt_of_released (by simp [w5100Reset_sock, Sock.reset]) (by simp [w5100Reset_sock, Sock.reset])

theorem writeMode_statusAgrees {s : State} (v : Byte) (h : s.StatusAgrees) : (s.writeMode v).StatusAgrees := by
  have h0 : ∀ n, 0 ≠ snSr n := fun n => by unfold snSr sockBase; omega
  rcases writeMode_cases s v with ⟨-, e⟩ | ⟨-, e⟩
  · rw [e]; exact poke_statusAgrees _ (w5100Reset_statusAgrees s) h0
  · rw [e]; exact poke_statusAgrees _ h h0

/-- The polls of a page read: the socket's own, then the virtual flow's, which is socket 0's. -/
theorem pagePoll_statusAgrees {s : State} (n : SockId) (h : s.StatusAgrees) : (s.pagePoll n).StatusAgrees := by
  have k := (socketStep_socketPoll s n).statusAgrees h
  unfold State.pagePoll
  dsimp only
  split
  · exact (socketStep_virtualTcpPoll _).statusAgrees k
  · exact k

theorem memRead_statusAgrees {s : State} {a : Word16} {r : Byte × State} (e : s.memRead a = .ok r)
    (h : s.StatusAgrees) : r.2.StatusAgrees := by
  rcases memRead_cases s a r e with e | ⟨-, e⟩
  · rw [e]; exact h
  · rw [e]; exact pagePoll_statusAgrees _ h

theorem memWrite_statusAgrees {s t : State} {a : Word16} {v : Byte} (e : s.memWrite a v = .ok t)
    (h : s.StatusAgrees) (ha : ∀ n, a.toNat ≠ snSr n) : t.StatusAgrees := by
  rcases memWrite_cases s a v t e with ⟨-, e⟩ | ⟨-, e⟩ | ⟨n, u, -, e, e'⟩ | ⟨-, -, -, e⟩
  · rw [e]; exact h
  · rw [e]; exact writeMode_statusAgrees v h
  · rw [e']; exact poke_snCr_statusAgrees n ((dispatchCommand_socketStep s n e).statusAgrees h)
  · rw [e]; exact poke_statusAgrees v h ha

/-- The post-increment moves the pointer only. -/
theorem postIncrement_statusAgrees {s : State} (h : s.StatusAgrees) : s.postIncrement.StatusAgrees := by
  rw [postIncrement_eq]
  exact h

/-- An operation that stores no status byte keeps status and handle in agreement. -/
theorem Effect.statusAgrees {i : Instr} {s t : State} (e : Effect s i t) (hn : ∀ n, ¬ storesAt s (snSr n) i)
    (h : s.StatusAgrees) : t.StatusAgrees := by
  cases e with
  | quiet q => exact q.statusAgrees h
  | pointerHigh | pointerLow => exact h
  | mode v => exact writeMode_statusAgrees v h
  | dataRead e => exact postIncrement_statusAgrees (memRead_statusAgrees e h)
  | dataWrite e =>
    exact postIncrement_statusAgrees (memWrite_statusAgrees e h fun n ha => hn n (.inl ⟨_, rfl, ha⟩))
  | page n b => exact pagePoll_statusAgrees n h
  | commandRegister e => exact poke_snCr_statusAgrees _ ((dispatchCommand_socketStep s _ e).statusAgrees h)
  | store a v => exact poke_statusAgrees v h fun n ha => hn n (.inr ⟨_, _, rfl, ha⟩)
  | socket k => exact k.statusAgrees h
  | slot e =>
    rcases setSlot_cases s _ _ with ⟨-, e'⟩ | ⟨-, -, -, e'⟩ | ⟨-, -, -, -, e'⟩ | ⟨-, -, -, -, e'⟩
    all_goals rw [e'] at e; cases e
    exact h

/-! ## Every step -/

/-- Settles O56: what a step takes from the list is decoded, so well formed, and what a well-formed
operation can do keeps the invariants. -/
theorem stepKeepsSound : Obligations.StepKeepsSound := by
  intro s t h e
  rcases step_cases s with ⟨-, e'⟩ | ⟨r, rest, -, ⟨x, -, e'⟩ | ⟨i, hd, e'⟩⟩
  · rw [e'] at e; cases e; exact h
  · rw [e'] at e; cases e
  · rw [e'] at e
    have ht : (s.take r rest).Sound := h
    exact (exec_effect e).sound (decode_wellFormed hd) ht

/-- Settles O57: what an operation that stores no status byte can do keeps the agreement of every
socket. -/
theorem stepKeepsStatusAgrees : Obligations.StepKeepsStatusAgrees := by
  intro s t r rest i _ h hp hd hn e
  rw [step_of_decode_ok hp hd] at e
  have ht : (s.take r rest).StatusAgrees := h
  exact (exec_effect e).statusAgrees hn ht

end Sys2Proof.Machine
end

section
/-! The computed registers Sn_TX_FSR and Sn_RX_RSR (40 R173), and what the polls of a page read leave (40 R172). -/

namespace Sys2Proof.Machine

/-! ## The bytes of a 16-bit value -/

theorem loByte_ofNat (f : Nat) : loByte (BitVec.ofNat 16 f) = BitVec.ofNat 8 f := by
  apply BitVec.eq_of_toNat_eq
  simp only [loByte, BitVec.extractLsb'_toNat, BitVec.toNat_ofNat, Nat.shiftRight_zero]
  omega

theorem hiByte_ofNat (f : Nat) : hiByte (BitVec.ofNat 16 f) = BitVec.ofNat 8 (f / 256) := by
  apply BitVec.eq_of_toNat_eq
  simp only [hiByte, BitVec.extractLsb'_toNat, BitVec.toNat_ofNat, Nat.shiftRight_eq_div_pow]
  omega

/-- Most significant byte at the even address (20 R90, D8). -/
theorem regByte_ofNat (f : Nat) (low : Bool) :
    regByte (BitVec.ofNat 16 f) low = if low then BitVec.ofNat 8 f else BitVec.ofNat 8 (f / 256) := by
  cases low
  · exact hiByte_ofNat f
  · exact loByte_ofNat f

/-! ## What the polls of a page read leave -/

variable (s : State) (n : SockId)

@[simp] theorem pagePoll_aside : (s.pagePoll n).aside = s.aside := by
  have k := (keeps_socketPoll s n).aside
  unfold State.pagePoll
  dsimp only
  split
  · exact (keeps_virtualTcpPoll _).aside.trans k
  · exact k

theorem aside_delivered {s t : State} (h : t.aside = s.aside) : t.delivered = s.delivered :=
  congrArg Aside.delivered h

/-- A byte delivered after a page read's polls is their only trace outside the sockets. -/
theorem pagePoll_deliver_restore (b : Byte) :
    { (s.pagePoll n).deliver b with delivered := s.delivered } = s.pagePoll n := by
  rw [← aside_delivered (pagePoll_aside s n)]
  rfl

/-- A page read writes no image byte but the status (D32). -/
theorem keepsOutside_pagePoll_deliver (b : Byte) : s.keepsOutside ((s.pagePoll n).deliver b) (· = snSr n) :=
  fun a ha => by simpa using pagePoll_peek s n a ha

/-! ## Sn_TX_FSR -/

/-- The ring distance between two pointers, in naturals (20 R112). -/
theorem ringDiff_eq (a b : Word16) : ringDiff a b = (a.toNat + 65536 - b.toNat) % 2048 := by
  have := a.isLt
  have := b.isLt
  unfold ringDiff
  rw [BitVec.toNat_sub]
  omega

theorem pagePoll_get16 (a : Nat) (h : a ≠ snSr n) (h1 : a + 1 ≠ snSr n) : (s.pagePoll n).get16 a = s.get16 a := by
  simp [State.get16, pagePoll_peek s n _ h, pagePoll_peek s n _ h1]

/-- The polls of a page read move neither TX pointer. -/
theorem pagePoll_txLen : (s.pagePoll n).txLen n = s.txLen n := by
  have hr := pagePoll_get16 s n (snTxRd n) (by unfold snTxRd snSr; omega) (by unfold snTxRd snSr; omega)
  have hw := pagePoll_get16 s n (snTxWr n) (by unfold snTxWr snSr; omega) (by unfold snTxWr snSr; omega)
  unfold State.txLen
  rw [hr, hw]

/-- A read of Sn_TX_FSR delivers a byte of 2048 less the bytes between the TX pointers (40 R173). -/
theorem exec_imgRdTxFsr (low : Bool) : exec (.imgRdTxFsr n low) s =
    .next ((s.pagePoll n).deliver (regByte (BitVec.ofNat 16 (2048 - s.txLen n)) low)) := by
  rw [← pagePoll_txLen s n]
  cases low <;> rfl

/-- Settles O22: the polls leave both pointers, so the free size is that of the state before the read. -/
theorem txFreeSize : Obligations.TxFreeSize := by
  intro n low s
  have hl : s.txLen n = _ := ringDiff_eq (s.get16 (snTxWr n)) (s.get16 (snTxRd n))
  refine ⟨_, 2048 - s.txLen n, exec_imgRdTxFsr s n low, ?_, congrArg some (regByte_ofNat _ low),
    pagePoll_deliver_restore s n _, keepsOutside_pagePoll_deliver s n _⟩
  rw [hl]
  omega

/-! ## Sn_RX_RSR -/

/-- The fill level is linear in MACRAW mode (10 R55, 70 R414). -/
theorem rsr_of_macraw {k : Sock} {f : Nat} (h : k.rsr = some f) (hm : k.macraw = true) :
    f + k.rxHead = k.rxTail := by
  simp only [Sock.rsr, hm, if_true] at h
  split at h <;> cases h
  omega

/-- The fill level is the distance in the ring otherwise (10 R55). -/
theorem rsr_of_not_macraw {k : Sock} {f : Nat} (h : k.rsr = some f) (hm : k.macraw = false) :
    (f : Int) = ((k.rxTail : Int) - (k.rxHead : Int)) % 2048 := by
  simp only [Sock.rsr, hm, Bool.false_eq_true, if_false, Option.some.injEq, ringFill] at h
  omega

/-- A read of Sn_RX_RSR delivers a byte of the fill level, where the polls leave one (40 R173). -/
theorem exec_imgRdRxRsr (low : Bool) {f : Nat} (h : ((s.pagePoll n).sock n).rsr = some f) :
    exec (.imgRdRxRsr n low) s = .next ((s.pagePoll n).deliver (regByte (BitVec.ofNat 16 f) low)) := by
  cases low <;> simp [exec, execImgRdRxRsr, State.readPage, State.pageByte, h, readOutcome]

/-- Where the polls leave no fill level, a read of Sn_RX_RSR is refused (93 U14). -/
theorem exec_imgRdRxRsr_refused (low : Bool) (h : ((s.pagePoll n).sock n).tailBelowHead) :
    exec (.imgRdRxRsr n low) s = .refused .macrawTailBelowHead := by
  have e := (readPage_error_iff s n (if low then 0x27 else 0x26) .macrawTailBelowHead).mpr
    ⟨by cases low <;> simp, h, rfl⟩
  simp only [exec, execImgRdRxRsr, e, readOutcome]

/-- Settles O23: the fill level after the polls, in either mode, and the refusal where it has no value. -/
theorem rxReceivedSize : Obligations.RxReceivedSize := by
  intro n low s
  refine ⟨fun hd => ?_, fun hm hlt => exec_imgRdRxRsr_refused s n low ⟨hm, hlt⟩⟩
  obtain ⟨f, hf⟩ := pagePoll_rsr s n hd
  exact ⟨_, f, exec_imgRdRxRsr s n low hf, rsr_of_macraw hf, rsr_of_not_macraw hf,
    congrArg some (regByte_ofNat f low), pagePoll_deliver_restore s n _, keepsOutside_pagePoll_deliver s n _⟩

end Sys2Proof.Machine
end

section
/-! The pointer: what a Data access does to it, and that nothing else but the address switches and a reset moves it (10 R24, 40 R169). -/

namespace Sys2Proof.Machine

/-! ## What an operation leaves aside -/

theorem aside_addrPtr {s t : State} (h : t.aside = s.aside) : t.addrPtr = s.addrPtr := congrArg Aside.addrPtr h

theorem aside_pending {s t : State} (h : t.aside = s.aside) : t.pending = s.pending := congrArg Aside.pending h

variable {s t : State}

theorem memRead_aside {a : Word16} {r : Byte × State} (e : s.memRead a = .ok r) : r.2.aside = s.aside := by
  rcases memRead_cases s a r e with e | ⟨-, e⟩
  · rw [e]
  · rw [e, pagePoll_aside]

/-- A mode write either is a reset, and is counted as one, or leaves aside what is aside. -/
theorem writeMode_aside_or_reset (s : State) (v : Byte) :
    (s.writeMode v).aside = s.aside ∨ (s.writeMode v).resets = s.resets + 1 := by
  rcases writeMode_cases s v with ⟨-, e⟩ | ⟨-, e⟩
  · exact .inr (by simp [e])
  · exact .inl (by simp [e])

theorem memWrite_aside_or_reset {a : Word16} {v : Byte} (e : s.memWrite a v = .ok t) :
    t.aside = s.aside ∨ t.resets = s.resets + 1 := by
  rcases memWrite_cases s a v t e with ⟨-, e⟩ | ⟨-, e⟩ | ⟨n, u, -, e, e'⟩ | ⟨-, -, -, e⟩
  · exact .inl (by rw [e])
  · rw [e]; exact writeMode_aside_or_reset s v
  · exact .inl (by rw [e', poke_aside]; exact (dispatchCommand_keeps s n v u e).aside)
  · exact .inl (by rw [e, poke_aside])

/-- A write that is no reset leaves aside what is aside. -/
theorem memWrite_aside {a : Word16} {v : Byte} (e : s.memWrite a v = .ok t) (hr : t.resets = s.resets) :
    t.aside = s.aside := (memWrite_aside_or_reset e).resolve_right (by omega)

/-! ## A Data access -/

/-- The pointer after a post-increment, by the mode byte as it is after it (40 R169, D6). -/
theorem postIncrement_addrPtr (s : State) : s.postIncrement.addrPtr =
    if s.autoInc then BitVec.ofNat 16 ((s.addrPtr.toNat + 1) % 0x8000) else s.addrPtr := by
  rw [postIncrement_eq]
  show nextPtr (s.peek 0) s.addrPtr = _
  unfold nextPtr State.autoInc
  by_cases h : s.peek 0 &&& 0x02 = 0
  · rw [if_pos h, if_neg (by rw [h]; decide)]
  · rw [if_neg h, if_pos (bne_iff_ne.mpr h)]

theorem autoInc_postIncrement (s : State) : s.postIncrement.autoInc = s.autoInc := by simp [State.autoInc]

/-- The operation is an access to the Data port. -/
def isDataOp (i : Instr) : Prop := i = .u2RdData ∨ ∃ v, i = .u2WrData v

/-- A Data access that is no reset is a post-increment of a state that has the pointer and the requests
as they were. -/
theorem exec_data {i : Instr} (hi : isDataOp i) (h : exec i s = .next t) (hr : t.resets = s.resets) :
    t.addrPtr = (if t.autoInc then BitVec.ofNat 16 ((s.addrPtr.toNat + 1) % 0x8000) else s.addrPtr)
      ∧ t.pending = s.pending := by
  have finish : ∀ u : State, u.aside = s.aside → u.postIncrement.addrPtr =
      (if u.postIncrement.autoInc then BitVec.ofNat 16 ((s.addrPtr.toNat + 1) % 0x8000) else s.addrPtr)
        ∧ u.postIncrement.pending = s.pending := by
    intro u hu
    rw [postIncrement_addrPtr, autoInc_postIncrement, aside_addrPtr hu, postIncrement_pending, aside_pending hu]
    exact ⟨rfl, rfl⟩
  rcases hi with rfl | ⟨v, rfl⟩
  · simp only [exec, execU2RdData] at h
    split at h <;> cases h
    next e => exact finish _ (memRead_aside e)
  · simp only [exec, execU2WrData] at h
    split at h <;> cases h
    next e => exact finish _ (memWrite_aside e (by simpa using hr))

/-! ## What else moves the pointer -/

/-- Nothing moves the pointer but a Data access, an address switch and a reset (10 R24). -/
theorem Effect.addrPtr {i : Instr} (e : Effect s i t) (h : t.addrPtr ≠ s.addrPtr) :
    i = .u2RdData ∨ (∃ v, i = .u2WrData v) ∨ (∃ v, i = .u2WrArh v) ∨ (∃ v, i = .u2WrArl v)
      ∨ t.resets = s.resets + 1 := by
  cases e with
  | dataRead => exact .inl rfl
  | dataWrite => exact .inr (.inl ⟨_, rfl⟩)
  | pointerHigh => exact .inr (.inr (.inl ⟨_, rfl⟩))
  | pointerLow => exact .inr (.inr (.inr (.inl ⟨_, rfl⟩)))
  | mode v =>
    exact .inr (.inr (.inr (.inr ((writeMode_aside_or_reset s v).resolve_left fun e => h (aside_addrPtr e)))))
  | quiet q => exact absurd q.addrPtr h
  | page n b => exact absurd (aside_addrPtr (pagePoll_aside s n)) h
  | commandRegister e => exact absurd (aside_addrPtr (dispatchCommand_keeps s _ _ _ e).aside) h
  | store a v => exact absurd (poke_addrPtr s _ v) h
  | socket k => exact absurd (aside_addrPtr k.aside) h
  | slot e =>
    rcases setSlot_cases s _ _ with ⟨-, e'⟩ | ⟨-, -, -, e'⟩ | ⟨-, -, -, -, e'⟩ | ⟨-, -, -, -, e'⟩
    all_goals rw [e'] at e; cases e
    exact absurd rfl h

/-! ## Runs of Data accesses -/

/-- A request to the Data port is decoded as an access to it, under any conditions (30 R122, R130). -/
theorem decode_dataAccess {r : Request} (c : Cond) (h : isDataAccess r) :
    ∃ i, decode c r = .ok i ∧ isDataOp i := by
  rcases h with rfl | ⟨v, rfl⟩
  · exact ⟨_, rfl, .inl rfl⟩
  · have hp : BitVec.ofNat 24 (0x20700 + v.toNat) = packAccess ⟨false, false, true, 7, v⟩ := by
      simp [packAccess]
    refine ⟨.u2WrData v, ?_, .inr ⟨v, rfl⟩⟩
    rw [hp]
    simp only [decode, unpack_pack ⟨false, false, true, 7, v⟩ (by simp) (by simp)]
    rfl

/-- A step of a Data access that is no reset: the request is taken and the pointer moved (40 R169). -/
theorem step_data {r : Request} {rest : List Request} (hp : s.pending = r :: rest) (hr : isDataAccess r)
    (h : step s = .next t) (hn : t.resets = s.resets) :
    t.addrPtr = (if t.autoInc then BitVec.ofNat 16 ((s.addrPtr.toNat + 1) % 0x8000) else s.addrPtr)
      ∧ t.pending = rest := by
  obtain ⟨i, hd, hi⟩ := decode_dataAccess (s.cond r.socket) hr
  rw [step_of_decode_ok hp hd] at h
  exact exec_data hi h hn

/-- A run of `k + 1` steps: the first one, and a run of `k`. -/
theorem run_succ_iff {k : Nat} : Host.Core.run core (k + 1) s = .next t ↔
    ∃ u, step s = .next u ∧ Host.Core.run core k u = .next t := by
  cases e : step s <;> simp [Host.Core.run, show core.step s = _ from e]

/-- A run of `k + 1` steps: a run of `k`, and the last one. -/
theorem run_succ_last {k : Nat} (h : Host.Core.run core (k + 1) s = .next t) :
    ∃ u, Host.Core.run core k s = .next u ∧ step u = .next t := by
  induction k generalizing s with
  | zero =>
    obtain ⟨u, hu, e⟩ := run_succ_iff.mp h
    cases e
    exact ⟨s, rfl, hu⟩
  | succ k ih =>
    obtain ⟨u, hu, h⟩ := run_succ_iff.mp h
    obtain ⟨x, hx, ht⟩ := ih h
    exact ⟨x, run_succ_iff.mpr ⟨u, hu, hx⟩, ht⟩

/-- In a run of Data accesses with AI on after each of them and no reset, every access moves the pointer
by one modulo 0x8000 and takes its request. -/
theorem run_data {l rest : List Request} (hp : s.pending = l ++ rest) (hl : ∀ r ∈ l, isDataAccess r)
    (hai : ∀ k t, 1 ≤ k → k ≤ l.length → Host.Core.run core k s = .next t →
      t.autoInc = true ∧ t.resets = s.resets) (k : Nat) (hk : k ≤ l.length)
    (h : Host.Core.run core k s = .next t) :
    t.resets = s.resets ∧ t.pending = l.drop k ++ rest
      ∧ t.addrPtr = if k = 0 then s.addrPtr else BitVec.ofNat 16 ((s.addrPtr.toNat + k) % 0x8000) := by
  induction k generalizing t with
  | zero => cases h; exact ⟨rfl, by simpa using hp, rfl⟩
  | succ k ih =>
    obtain ⟨u, hu, hs⟩ := run_succ_last h
    obtain ⟨hur, hup, hua⟩ := ih (by omega) hu
    obtain ⟨hta, htr⟩ := hai (k + 1) t (by omega) hk h
    rw [List.drop_eq_getElem_cons hk, List.cons_append] at hup
    obtain ⟨hptr, hpend⟩ := step_data hup (hl _ (List.getElem_mem hk)) hs (htr.trans hur.symm)
    refine ⟨htr, hpend, ?_⟩
    rw [hptr, hta, if_pos rfl, if_neg (Nat.succ_ne_zero k), hua]
    congr 1
    split
    · next hk0 => rw [hk0]
    · rw [BitVec.toNat_ofNat]; omega

/-- Settles O20: the law of a run, by induction on the accesses made; one access; and everything else. -/
theorem autoIncrementLaw : Obligations.AutoIncrementLaw := by
  refine ⟨fun s l rest hp hl hai k t h1 hk h => ?_, fun v s t h hr => ?_, fun i s t h => (exec_effect h).addrPtr⟩
  · obtain ⟨-, hpend, hptr⟩ := run_data hp hl hai k hk h
    rw [if_neg (by omega)] at hptr
    exact ⟨hptr, hpend⟩
  · rcases h with h | h
    · exact (exec_data (.inl rfl) h hr).1
    · exact (exec_data (.inr ⟨v, rfl⟩) h hr).1

end Sys2Proof.Machine
end

section
/-! The power-on state (10 R75, R76, 43 R284), and the invariants in it. -/

namespace Sys2Proof.Machine

/-! ## Seeds -/

/-- An address that no seed has reads as 0. -/
theorem seedAt_of_forall_ne {l : List Host.Cell} {a : Nat} (h : ∀ c ∈ l, a ≠ c.1) : seedAt l a = 0 := by
  induction l with
  | nil => rfl
  | cons c l ih =>
    rw [seedAt, if_neg (h c (by simp))]
    exact ih fun d hd => h d (List.mem_cons_of_mem c hd)

/-- The seeds of the common registers stand in two runs of addresses (70 R390 (c)). -/
theorem commonSeeds_range : ∀ c ∈ commonSeeds, (0x0001 ≤ c.1 ∧ c.1 ≤ 0x0012) ∨ (0x0017 ≤ c.1 ∧ c.1 ≤ 0x001B) := by
  decide

/-- Outside the seeds and the pointers of the socket pages the image is zero after reset (10 R75). -/
theorem imageDefault_eq_zero {a : Nat} (h1 : ¬ (0x0001 ≤ a ∧ a ≤ 0x0012)) (h2 : ¬ (0x0017 ≤ a ∧ a ≤ 0x001B))
    (h3 : ∀ n : SockId, ¬ (snTxRd n ≤ a ∧ a ≤ snTxRd n + 3) ∧ ¬ regBytes (snRxRd n) a) : imageDefault a = 0 := by
  unfold imageDefault
  split_ifs with hc hp ht hr
  · exact seedAt_of_forall_ne fun c hm e => by
      have := commonSeeds_range c hm
      omega
  · obtain ⟨ht', -⟩ := h3 (Fin.ofNat 4 (a / 0x100))
    have hv : (Fin.ofNat 4 (a / 0x100)).val = a / 0x100 % 4 := rfl
    unfold snTxRd sockBase at ht'
    omega
  · obtain ⟨-, hr'⟩ := h3 (Fin.ofNat 4 (a / 0x100))
    have hv : (Fin.ofNat 4 (a / 0x100)).val = a / 0x100 % 4 := rfl
    unfold regBytes snRxRd sockBase at hr'
    omega
  · rfl
  · rfl

/-- The bytes of the fallback ROM that are not zero (43 R284). -/
theorem fallbackRom_eq_zero {i : Nat} (h : i ∉ [0x005, 0x007, 0x00B, 0x00C, 0x01C, 0x0FB])
    (hr : ¬ (0x012 ≤ i ∧ i ≤ 0x019)) : fallbackRom i = 0 := by
  simp only [List.mem_cons, List.not_mem_nil, or_false, not_or] at h
  refine seedAt_of_forall_ne fun c hc => ?_
  fin_cases hc <;> dsimp only <;> omega

/-- The rows of the fallback ROM that are all 0x60 (43 R284). -/
theorem fallbackRom_entries : ∀ i < 0x01A, 0x012 ≤ i → fallbackRom i = 0x60 := by decide

/-! ## The power-on state -/

@[simp] theorem reset_sock (n : SockId) : State.reset.sock n = Sock.reset := by fin_cases n <;> rfl

/-- The pointers of each socket after reset (10 R75). -/
theorem reset_pointers (n : SockId) :
    State.reset.get16 (snTxRd n) = BitVec.ofNat 16 (0x4000 + 0x800 * n.val)
      ∧ State.reset.get16 (snTxWr n) = BitVec.ofNat 16 (0x4000 + 0x800 * n.val)
      ∧ State.reset.get16 (snRxRd n) = BitVec.ofNat 16 (0x6000 + 0x800 * n.val) := by
  revert n
  decide

/-- Settles O13: every field of the reset state is what it is by definition; the bytes not listed are no
seeds. -/
theorem powerOnState : Obligations.PowerOnState :=
  ⟨by decide, by decide, by decide, by decide, by decide, by decide, by decide, by decide, by decide, by decide,
    reset_pointers, fun _ => imageDefault_eq_zero, fun n => ⟨reset_sock n, fun i => by rw [reset_sock]; rfl⟩, rfl, rfl,
    rfl, by decide, by decide, by decide, by decide, by decide, by decide,
    fun i h1 h2 => fallbackRom_entries i (by omega) h1, fun _ => fallbackRom_eq_zero⟩

/-! ## The invariants at reset -/

theorem reset_sound : State.reset.Sound := by
  refine ⟨⟨rfl, rfl, fun n => by rw [reset_sock]; rfl⟩, ⟨imageDefault_snCr, by decide⟩, ⟨by decide, by decide⟩,
    fun n => ?_, ⟨by decide, by decide⟩, ?_⟩
  · rw [reset_sock]
    simp [Sock.sane, Sock.reset]
  · simp [State.SlotsLegal, State.reset, Params.default]

theorem reset_statusAgrees : State.reset.StatusAgrees := fun n =>
  agreesAt_of_released (by simp [Sock.reset]) (by simp [Sock.reset])

/-- Settles O55: no memory has a cell, no socket a handle, and no slot is set after reset. -/
theorem soundAtReset : Obligations.SoundAtReset := ⟨reset_sound, reset_statusAgrees⟩

end Sys2Proof.Machine
end

section
/-! Injection of a frame into a staging buffer (20 R92, 42 R265): what the buffer reads as afterwards, and the frame of the operation. -/

namespace Sys2Proof.Machine

variable {s : State} {n : SockId} {f : Frame}

/-- A framed frame is the two bytes of its length prefix and then the frame itself. -/
theorem framed_eq_cons (f : Frame) :
    framed f = hiByte (BitVec.ofNat 16 (f.length + 2)) :: loByte (BitVec.ofNat 16 (f.length + 2)) :: f := rfl

/-- The socket after an injection that fits: its staging buffer and its tail are all that changes. -/
theorem sock_rxInject_of_fits (hfit : (s.sock n).rxTail + f.length + 2 ≤ 4096) :
    (s.rxInject n f).sock n =
      { s.sock n with
        staging := stageLinear (s.sock n).staging (s.sock n).rxTail (framed f)
        rxTail := (s.sock n).rxTail + f.length + 2 } := by
  rw [sock_rxInject, if_pos ⟨rfl, hfit⟩]

/-- From the old tail on the staging buffer holds the framed frame. -/
theorem staging_rxInject_tail_add (hfit : (s.sock n).rxTail + f.length + 2 ≤ 4096) {j : Nat}
    (hj : j < f.length + 2) :
    ((s.rxInject n f).sock n).staging.read stagingDefault ((s.sock n).rxTail + j) = (framed f).getD j 0 := by
  rw [sock_rxInject_of_fits hfit, read_stageLinear, length_framed, if_pos (by omega), Nat.add_sub_cancel_left]

/-- What was staged before the injection is still there, whether the frame fits or is dropped. -/
theorem staging_rxInject_of_lt_tail {i : Nat} (hi : i < (s.sock n).rxTail) :
    ((s.rxInject n f).sock n).staging.read stagingDefault i = (s.sock n).staging.read stagingDefault i := by
  rw [sock_rxInject]
  split
  · rw [read_stageLinear, if_neg (by omega)]
  · rfl

/-- An injection reaches no byte of the image and no other socket. -/
theorem rxInject_onlySocket (s : State) (n : SockId) (f : Frame) :
    s.onlySocket (s.rxInject n f) n (fun _ => False) :=
  ⟨fun a _ => rxInject_peek s n f a, fun m hm => by rw [sock_rxInject, if_neg fun h => hm h.1],
    rxInject_venv s n f, rxInject_aside s n f⟩

/-- Settles O42: the buffer holds the framed frame from the old tail on, so the prefix at its first two
places and the frame's bytes behind them; a frame that fits is short enough for its length to fit 16 bits. -/
theorem injectedFramePrefix : Obligations.InjectedFramePrefix := by
  intro n f s hfit
  refine ⟨?high, ?low, ?length, fun i hi => ?byte, fun i hi => staging_rxInject_of_lt_tail hi, ?socket,
    rxInject_onlySocket s n f⟩
  case high => exact staging_rxInject_tail_add hfit (j := 0) (by omega)
  case low => exact staging_rxInject_tail_add hfit (j := 1) (by omega)
  case length => exact (BitVec.toNat_ofNat ..).trans (Nat.mod_eq_of_lt (by omega))
  case byte =>
    rw [Nat.add_assoc, staging_rxInject_tail_add hfit (by omega), framed_eq_cons, Nat.add_comm 2 i]
    simp [hi]
  case socket => rw [sock_rxInject_of_fits hfit]

end Sys2Proof.Machine
end

section
/-! The access word bit by bit (30 R122), and the words of the opcode table. -/

namespace Sys2Proof

/-! ## Bits and fields of a word by division -/

/-- A flag that is a bit of a word, over the natural numbers. -/
theorem eq_getLsbD_iff {m : Nat} (w : BitVec m) (i : Nat) (b : Bool) :
    b = w.getLsbD i ↔ b.toNat = w.toNat / 2 ^ i % 2 := by
  rw [← BitVec.testBit_toNat, ← Nat.toNat_testBit]
  cases b <;> cases w.toNat.testBit i <;> decide

/-- A value that is a field of a word, over the natural numbers. -/
theorem eq_extractLsb'_iff {m len : Nat} (w : BitVec m) (i : Nat) (x : BitVec len) :
    x = w.extractLsb' i len ↔ x.toNat = w.toNat / 2 ^ i % 2 ^ len := by
  rw [BitVec.toNat_eq, BitVec.extractLsb'_toNat, Nat.shiftRight_eq_div_pow]

/-- A field of a word that is 0, over the natural numbers. -/
theorem extractLsb'_eq_zero_iff {m len : Nat} (w : BitVec m) (i : Nat) :
    w.extractLsb' i len = 0 ↔ w.toNat / 2 ^ i % 2 ^ len = 0 := by
  rw [eq_comm, eq_extractLsb'_iff, eq_comm, BitVec.ofNat_eq_ofNat, BitVec.toNat_zero]

/-! ## The access word (30 R122) -/

/-- A word is packed from the fields that stand in it, and its other five bits are 0. -/
theorem packAccess_eq_iff (a : Access) (w : BitVec 24) :
    packAccess a = w ↔
      w.extractLsb' 20 4 = 0 ∧ w.getLsbD 16 = false ∧ a.card = w.getLsbD 19 ∧ a.space = w.getLsbD 18
        ∧ a.rw = w.getLsbD 17 ∧ a.off = w.extractLsb' 8 8 ∧ a.val = w.extractLsb' 0 8 := by
  have := a.off.isLt
  have := a.val.isLt
  have := w.isLt
  have := Bool.toNat_le a.card
  have := Bool.toNat_le a.space
  have := Bool.toNat_le a.rw
  rw [eq_comm (b := false), BitVec.toNat_eq, packAccess_toNat]
  simp only [eq_getLsbD_iff, eq_extractLsb'_iff, extractLsb'_eq_zero_iff, Bool.toNat_false]
  norm_num only
  omega

/-- A soft switch is at most 15 exactly if its upper half is 0. -/
theorem extractLsb'_high_eq_zero_iff (o : Byte) : o.extractLsb' 4 4 = 0 ↔ o.toNat < 16 := by
  rw [extractLsb'_eq_zero_iff]
  omega

/-- A word encodes an access exactly if it is packed from it and the access satisfies 30 R122. -/
theorem unpackAccess_eq_ok_iff (w : BitVec 24) (a : Access) :
    unpackAccess w = .ok a ↔
      packAccess a = w ∧ (a.rw = false → a.val = 0) ∧ (a.space = false → a.off.toNat < 16) :=
  ⟨pack_unpack w a, fun ⟨hw, hread, hswitch⟩ => hw ▸ unpack_pack a hread hswitch⟩

/-- Settles O2: packing and unpacking are inverse to one another, and what is packed is read off the word
bit by bit. -/
theorem accessWordLayout : Obligations.AccessWordLayout := by
  refine ⟨fun w a => ?_, rfl, rfl, rfl, rfl, rfl, rfl⟩
  rw [unpackAccess_eq_ok_iff, packAccess_eq_iff, extractLsb'_high_eq_zero_iff]
  tauto

/-- Settles O1: the words are closed terms, so the decoder runs on each. -/
theorem tableWordsDecode : Obligations.TableWordsDecode :=
  ⟨rfl, rfl, rfl, rfl, rfl, rfl, rfl, rfl, rfl, rfl⟩

end Sys2Proof
end

section
/-! The encoder undoes the decoder (30 R122 to R133, R142, R151): what a request decodes to is selected by the conditions and encodes to that request. -/

namespace Sys2Proof

variable {c : Cond}

/-! ## The register-select map (30 R150) -/

section

variable {m : PiaMap}

/-- Where every register has a soft switch, the switch found for a register selects it. -/
theorem select_offsetOf (h : m.onto = true) (r : PiaSel) : m.select (m.offsetOf r) = r := by
  simp only [PiaMap.onto, Bool.and_eq_true, beq_iff_eq] at h
  obtain ⟨⟨⟨hA, hcA⟩, hB⟩, hcB⟩ := h
  cases r <;> assumption

theorem offsetOf_lt (m : PiaMap) (r : PiaSel) : m.offsetOf r < 4 := by
  unfold PiaMap.offsetOf
  split_ifs <;> decide

/-- Two registers have no soft switch in common. -/
theorem offsetOf_ne (h : m.onto = true) {r q : PiaSel} (hne : r ≠ q) : m.offsetOf r ≠ m.offsetOf q := fun e =>
  hne (by rw [← select_offsetOf h r, e, select_offsetOf h q])

/-- Every soft switch is the one found for some register: the four registers have four different switches. -/
theorem exists_offsetOf_eq (h : m.onto = true) {k : Nat} (hk : k < 4) : ∃ r, m.offsetOf r = k := by
  have hlt := offsetOf_lt m
  have hA := hlt .portA
  have hcA := hlt .ctlA
  have hB := hlt .portB
  have hcB := hlt .ctlB
  have hAcA := offsetOf_ne h (r := .portA) (q := .ctlA) (by decide)
  have hAB := offsetOf_ne h (r := .portA) (q := .portB) (by decide)
  have hAcB := offsetOf_ne h (r := .portA) (q := .ctlB) (by decide)
  have hcAB := offsetOf_ne h (r := .ctlA) (q := .portB) (by decide)
  have hcAcB := offsetOf_ne h (r := .ctlA) (q := .ctlB) (by decide)
  have hBcB := offsetOf_ne h (r := .portB) (q := .ctlB) (by decide)
  by_contra hnone
  rw [not_exists] at hnone
  have kA := hnone .portA
  have kcA := hnone .ctlA
  have kB := hnone .portB
  have kcB := hnone .ctlB
  omega

/-- Where every register has a soft switch, a switch is the one found for the register that it selects. -/
theorem ofNat_offsetOf_select (h : m.onto = true) {off : Byte} (hoff : off.toNat < 4) :
    BitVec.ofNat 8 (m.offsetOf (m.select off.toNat)) = off := by
  obtain ⟨r, hr⟩ := exists_offsetOf_eq h hoff
  rw [← hr, select_offsetOf h, hr, BitVec.ofNat_toNat, BitVec.setWidth_eq]

end

/-! ## Bus accesses (30 R122, R130, R151) -/

/-- A soft switch from its low two bits and the least of its block of four. -/
theorem ofNat_lowSwitch {off : Byte} {k : Nat} (hk : 4 * (off.toNat / 4) = k) :
    BitVec.ofNat 8 ((BitVec.ofNat 2 off.toNat).toNat + k) = off := by
  have := off.isLt
  apply BitVec.eq_of_toNat_eq
  rw [BitVec.toNat_ofNat, BitVec.toNat_ofNat]
  omega

/-- A soft switch of 8..15 from its low three bits. -/
theorem ofNat_highSwitch {off : Byte} (hlow : 8 ≤ off.toNat) (hhigh : off.toNat < 16) :
    BitVec.ofNat 8 ((BitVec.ofNat 3 off.toNat).toNat + 8) = off := by
  apply BitVec.eq_of_toNat_eq
  rw [BitVec.toNat_ofNat, BitVec.toNat_ofNat]
  omega

theorem encode_decodeU2Read (m : PiaMap) {off : Byte} (h : off.toNat < 16) :
    encode m (decodeU2Read off) = busWord false false false off 0 := by
  unfold decodeU2Read
  split_ifs with hlow e e e e
  · exact congrArg (busWord false false false · 0) (ofNat_lowSwitch (k := 0) (by omega))
  iterate 4 exact congrArg (busWord false false false · 0) (BitVec.eq_of_toNat_eq e.symm)
  · exact congrArg (busWord false false false · 0) (ofNat_highSwitch (by omega) h)

theorem encode_decodeU2Write (m : PiaMap) {off : Byte} (val : Byte) (h : off.toNat < 16) :
    encode m (decodeU2Write off val) = busWord false false true off val := by
  unfold decodeU2Write
  split_ifs with hlow e e e e
  · exact congrArg (busWord false false true · val) (ofNat_lowSwitch (k := 0) (by omega))
  iterate 4 exact congrArg (busWord false false true · val) (BitVec.eq_of_toNat_eq e.symm)
  · exact congrArg (busWord false false true · val) (ofNat_highSwitch (by omega) h)

theorem encode_decodePiaRead (hm : c.rsMap.onto = true) {off : Byte} (h : off.toNat < 16) :
    encode c.rsMap (decodePiaRead c off) = busWord true false false off 0 := by
  unfold decodePiaRead
  split
  case isTrue hregister =>
    have hoff := ofNat_offsetOf_select hm hregister
    cases hr : c.rsMap.select off.toNat <;> rw [hr] at hoff
    case portA => cases c.dataA <;> exact congrArg (busWord true false false · 0) hoff
    case portB => cases c.dataB <;> exact congrArg (busWord true false false · 0) hoff
    case ctlA | ctlB => exact congrArg (busWord true false false · 0) hoff
  case isFalse =>
    split_ifs
    · exact congrArg (busWord true false false · 0) (ofNat_lowSwitch (k := 4) (by omega))
    · exact congrArg (busWord true false false · 0) (ofNat_highSwitch (by omega) h)

theorem encode_decodePiaWrite (hm : c.rsMap.onto = true) {off : Byte} (val : Byte) (h : off.toNat < 16) :
    encode c.rsMap (decodePiaWrite c off val) = busWord true false true off val := by
  unfold decodePiaWrite
  split
  case isTrue hregister =>
    have hoff := ofNat_offsetOf_select hm hregister
    cases hr : c.rsMap.select off.toNat <;> rw [hr] at hoff
    case portA => cases c.dataA <;> exact congrArg (busWord true false true · val) hoff
    case portB => cases c.dataB <;> exact congrArg (busWord true false true · val) hoff
    case ctlA | ctlB => exact congrArg (busWord true false true · val) hoff
  case isFalse =>
    split_ifs
    · exact congrArg (busWord true false true · val) (ofNat_lowSwitch (k := 4) (by omega))
    · exact congrArg (busWord true false true · val) (ofNat_highSwitch (by omega) h)

/-- An access that satisfies 30 R122 decodes to an operation that encodes to its word. -/
theorem encode_decodeAccess (hm : c.rsMap.onto = true) {a : Access} (hread : a.rw = false → a.val = 0)
    (hswitch : a.space = false → a.off.toNat < 16) :
    encode c.rsMap (decodeAccess c a) = .bus (packAccess a) := by
  obtain ⟨card, space, rw, off, val⟩ := a
  cases rw
  case false =>
    obtain rfl : val = 0 := hread rfl
    cases space
    case false =>
      cases card
      · exact encode_decodeU2Read _ (hswitch rfl)
      · exact encode_decodePiaRead hm (hswitch rfl)
    case true => cases card <;> rfl
  case true =>
    cases space
    case false =>
      cases card
      · exact encode_decodeU2Write _ _ (hswitch rfl)
      · exact encode_decodePiaWrite hm _ (hswitch rfl)
    case true => cases card <;> rfl

/-! ## Image addresses (30 R125, R132, R133) -/

/-- An address in the socket pages is its page's socket and its offset in the page. -/
theorem pageAddr_of_page {a : BitVec 16} {o : Byte} (hpage : a.toNat / 0x400 = 1)
    (ho : o.toNat = a.toNat % 0x100) : pageAddr (Fin.ofNat 4 (a.toNat / 0x100)) o = a := by
  apply BitVec.eq_of_toNat_eq
  rw [pageAddr_toNat, ho, Fin.val_ofNat]
  omega

/-- The offset in a page of one byte of a two-byte register, chosen by bit 0 of the address. -/
theorem toNat_pairOffset {x k : Nat} {high low : Byte} (hhigh : high.toNat = 2 * k) (hlow : low.toNat = 2 * k + 1)
    (hx : x % 0x100 / 2 = k) : (if x % 2 == 1 then low else high).toNat = x % 0x100 := by
  split_ifs with hbit <;> rw [beq_iff_eq] at hbit <;> omega

/-- An address of 0x8000 or more from its low 15 bits. -/
theorem ofNat_highAddr {a : BitVec 16} (h : 0x8000 ≤ a.toNat) :
    BitVec.ofNat 16 ((BitVec.ofNat 15 a.toNat).toNat + 0x8000) = a := by
  have := a.isLt
  apply BitVec.eq_of_toNat_eq
  rw [BitVec.toNat_ofNat, BitVec.toNat_ofNat]
  omega

/-- An address below 0x8000 from its low 15 bits. -/
theorem ofNat_lowAddr {a : BitVec 16} (h : a.toNat < 0x8000) :
    BitVec.ofNat 16 (BitVec.ofNat 15 a.toNat).toNat = a := by
  apply BitVec.eq_of_toNat_eq
  rw [BitVec.toNat_ofNat, BitVec.toNat_ofNat]
  omega

theorem encode_decodeImageRead (m : PiaMap) (a : BitVec 16) : encode m (decodeImageRead a) = .imageRead a := by
  unfold decodeImageRead
  dsimp only
  split_ifs with hinvalid hpage htx hrx hwindow
  all_goals refine congrArg Request.imageRead ?_
  · exact ofNat_highAddr hinvalid
  · exact pageAddr_of_page hpage (toNat_pairOffset rfl rfl htx)
  · exact pageAddr_of_page hpage (toNat_pairOffset rfl rfl hrx)
  · exact pageAddr_of_page hpage (BitVec.toNat_ofNat ..)
  · apply BitVec.eq_of_toNat_eq
    rw [BitVec.toNat_ofNat, BitVec.toNat_ofNat, Fin.val_ofNat]
    omega
  · exact ofNat_lowAddr (by omega)

theorem encode_decodeImageWrite (m : PiaMap) (a : BitVec 16) (v : Byte) :
    encode m (decodeImageWrite a v) = .imageWrite a v := by
  unfold decodeImageWrite
  dsimp only
  split_ifs with hinvalid hmode hcommand
  all_goals refine congrArg (Request.imageWrite · v) ?_
  · exact ofNat_highAddr hinvalid
  · exact BitVec.eq_of_toNat_eq hmode.symm
  · exact pageAddr_of_page hcommand.1 hcommand.2.symm
  · exact ofNat_lowAddr (by omega)

/-! ## Command bytes (30 R142, 41 R200) -/

/-- In a state OPEN opens a MACRAW socket only on socket 0 (41 R200). -/
theorem eq_zero_of_cond_openKind_macraw {s : Machine.State} {n : SockId} (h : (s.cond n).openKind = .macraw) :
    n = 0 := by
  change Machine.openKindOf _ _ _ = _ at h
  unfold Machine.openKindOf at h
  split_ifs at h with _ _ hmacraw
  exact hmacraw.2

theorem encode_decodeCommand (m : PiaMap) {n : SockId} (hn : c.openKind = .macraw → n = 0) (b : Byte) :
    encode m (decodeCommand c n b) = .command n b := by
  unfold decodeCommand
  split_ifs with hopen hb hb hb hb hsend _ hb
  · subst hopen
    cases hk : c.openKind
    case macraw => rw [hn hk]; rfl
    case tcp | udp | other => rfl
  all_goals subst_vars; rfl

/-! ## Requests -/

/-- What a request decodes to encodes to it, where every register of the PIA has a soft switch and OPEN
opens a MACRAW socket only on socket 0. -/
theorem encode_of_decode {r : Request} {i : Instr} (hm : c.rsMap.onto = true)
    (hn : c.openKind = .macraw → r.socket = 0) (h : decode c r = .ok i) : encode c.rsMap i = r := by
  cases r with
  | bus w =>
    simp only [decode] at h
    split at h <;> cases h
    next a ha =>
      obtain ⟨hw, hread, hswitch⟩ := pack_unpack w a ha
      rw [encode_decodeAccess hm hread hswitch, hw]
  | imageRead a => cases h; exact encode_decodeImageRead _ a
  | imageWrite a v => cases h; exact encode_decodeImageWrite _ a v
  | command n b => cases h; exact encode_decodeCommand _ hn b
  | callU2SetSlot x => simp only [decode] at h; split at h <;> cases h; rfl
  | callMouseSetSlot x => simp only [decode] at h; split at h <;> cases h; rfl
  | pollSocket | pollVtcp | callSetPosition | callSetButton | callGetState => cases h; rfl

/-! ## The row that the conditions select (30 R151, 41 R200) -/

theorem decodeU2Read_selects (c : Cond) (off : Byte) : c.selects (decodeU2Read off) = true := by
  unfold decodeU2Read
  split_ifs <;> rfl

theorem decodeU2Write_selects (c : Cond) (off val : Byte) : c.selects (decodeU2Write off val) = true := by
  unfold decodeU2Write
  split_ifs <;> rfl

theorem decodePiaRead_selects (c : Cond) (off : Byte) : c.selects (decodePiaRead c off) = true := by
  unfold decodePiaRead
  split
  case isTrue =>
    cases c.rsMap.select off.toNat
    case portA => cases hA : c.dataA <;> simp [Cond.selects, hA]
    case portB => cases hB : c.dataB <;> simp [Cond.selects, hB]
    case ctlA | ctlB => rfl
  case isFalse => split_ifs <;> rfl

theorem decodePiaWrite_selects (c : Cond) (off val : Byte) : c.selects (decodePiaWrite c off val) = true := by
  unfold decodePiaWrite
  split
  case isTrue =>
    cases c.rsMap.select off.toNat
    case portA => cases hA : c.dataA <;> simp [Cond.selects, hA]
    case portB => cases hB : c.dataB <;> simp [Cond.selects, hB]
    case ctlA | ctlB => rfl
  case isFalse => split_ifs <;> rfl

theorem decodeAccess_selects (c : Cond) (a : Access) : c.selects (decodeAccess c a) = true := by
  unfold decodeAccess
  split
  · rfl
  · rfl
  · exact decodeU2Read_selects c _
  · exact decodeU2Write_selects c _ _
  · rfl
  · rfl
  · exact decodePiaRead_selects c _
  · exact decodePiaWrite_selects c _ _

/-- No condition chooses between the classes of image reads (30 R132). -/
theorem decodeImageRead_selects (c : Cond) (a : BitVec 16) : c.selects (decodeImageRead a) = true := by
  unfold decodeImageRead
  dsimp only
  split_ifs <;> rfl

/-- No condition chooses between the classes of image writes (30 R133). -/
theorem decodeImageWrite_selects (c : Cond) (a : BitVec 16) (v : Byte) :
    c.selects (decodeImageWrite a v) = true := by
  unfold decodeImageWrite
  dsimp only
  split_ifs <;> rfl

theorem decodeCommand_selects (c : Cond) (n : SockId) (b : Byte) : c.selects (decodeCommand c n b) = true := by
  unfold decodeCommand
  split_ifs with hopen hb hb hb hb hsend hmacraw hb
  · cases hk : c.openKind <;> simp [Cond.selects, hk]
  iterate 4 rfl
  · exact hmacraw
  · simpa [Cond.selects] using hmacraw
  iterate 2 rfl

/-- What the decoder gives is the row that its conditions select. -/
theorem decode_selects {r : Request} {i : Instr} (h : decode c r = .ok i) : c.selects i = true := by
  cases r with
  | bus w =>
    simp only [decode] at h
    split at h <;> cases h
    exact decodeAccess_selects c _
  | imageRead a => cases h; exact decodeImageRead_selects c a
  | imageWrite a v => cases h; exact decodeImageWrite_selects c a v
  | command n b => cases h; exact decodeCommand_selects c n b
  | callU2SetSlot x => simp only [decode] at h; split at h <;> cases h; rfl
  | callMouseSetSlot x => simp only [decode] at h; split at h <;> cases h; rfl
  | pollSocket | pollVtcp | callSetPosition | callSetButton | callGetState => cases h; rfl

/-- Settles O4: decoding gives a well-formed row that the conditions select, and encoding undoes it where OPEN
opens a MACRAW socket only on socket 0, as it does under the conditions of a state (41 R200). -/
theorem decodeThenEncode : Obligations.DecodeThenEncode := by
  intro s r i hm h
  have henc := encode_of_decode (c := s.cond r.socket) hm eq_zero_of_cond_openKind_macraw h
  exact ⟨decode_wellFormed h, decode_selects h, henc⟩

end Sys2Proof
end

section
/-! The classes of image addresses (30 R132, R133; 40 R170, R180), and the plain accesses to each class. -/

namespace Sys2Proof.Machine

/-! ## Fields of an address (30 R125) -/

/-- The socket of an address in a socket's page. -/
theorem ofNat_pageSocket {x : Nat} {n : SockId} (o : Byte) (h : x = sockBase n + o.toNat) :
    Fin.ofNat 4 (x / 0x100) = n := by
  have := o.isLt
  unfold sockBase at h
  exact Fin.ext (by rw [Fin.val_ofNat]; omega)

/-- The offset of an address in a socket's page. -/
theorem ofNat_pageOffset {x : Nat} {o : Byte} (h : x % 0x100 = o.toNat) : BitVec.ofNat 8 x = o := by
  apply BitVec.eq_of_toNat_eq
  rw [BitVec.toNat_ofNat]
  exact h

/-- An address of the invalid range, counted from its start. -/
theorem ofNat_invalidAddr (x : Nat) (h : 0x8000 ≤ x) : BitVec.ofNat 15 x = BitVec.ofNat 15 (x - 0x8000) := by
  apply BitVec.eq_of_toNat_eq
  rw [BitVec.toNat_ofNat, BitVec.toNat_ofNat]
  omega

/-! ## Reads, class by class -/

theorem decodeImageRead_invalid {a : Word16} (h : 0x8000 ≤ a.toNat) :
    decodeImageRead a = .imgRdInvalid (BitVec.ofNat 15 (a.toNat - 0x8000)) := by
  unfold decodeImageRead
  dsimp only
  rw [if_pos h, ofNat_invalidAddr _ h]

/-- The three rows of a socket's page: the two computed registers by their pairs of offsets, and the rest. -/
theorem decodeImageRead_page {a : Word16} {n : SockId} {o : Byte} (h : a.toNat = sockBase n + o.toNat) :
    decodeImageRead a =
      if o = 0x20 ∨ o = 0x21 then .imgRdTxFsr n (o == 0x21)
      else if o = 0x26 ∨ o = 0x27 then .imgRdRxRsr n (o == 0x27)
      else .imgRdSockreg n o := by
  have ho := o.isLt
  have hn := ofNat_pageSocket o h
  unfold sockBase at h
  have hoff : a.toNat % 0x100 = o.toNat := by omega
  have htx : o = 0x20 ∨ o = 0x21 ↔ o.toNat / 2 = 0x10 := by clear * -; revert o; decide
  have hrx : o = 0x26 ∨ o = 0x27 ↔ o.toNat / 2 = 0x13 := by clear * -; revert o; decide
  have hbit : a.toNat % 2 = o.toNat % 2 := by omega
  unfold decodeImageRead
  dsimp only
  rw [if_neg (by omega), if_pos (by omega), hn, hoff, hbit, ofNat_pageOffset hoff]
  simp only [← htx, ← hrx]
  split_ifs with h1 h2
  · rcases h1 with rfl | rfl <;> rfl
  · rcases h2 with rfl | rfl <;> rfl
  · rfl

theorem decodeImageRead_window {a : Word16} {n : SockId} {i : BitVec 11} (h : a.toNat = rxBase n + i.toNat) :
    decodeImageRead a = .imgRdRxwin n i := by
  have hi := i.isLt
  unfold rxBase at h
  have hn : Fin.ofNat 4 (a.toNat / 0x800) = n := Fin.ext (by rw [Fin.val_ofNat]; omega)
  have hoff : BitVec.ofNat 11 a.toNat = i := by
    apply BitVec.eq_of_toNat_eq
    rw [BitVec.toNat_ofNat]
    omega
  unfold decodeImageRead
  dsimp only
  rw [if_neg (by omega), if_neg (by omega), if_pos (by omega), hn, hoff]

theorem decodeImageRead_plain {a : Word16} (h : a.toNat < 0x400 ∨ (0x800 ≤ a.toNat ∧ a.toNat < 0x6000)) :
    decodeImageRead a = .imgRdPlain (BitVec.ofNat 15 a.toNat) := by
  unfold decodeImageRead
  dsimp only
  rw [if_neg (by omega), if_neg (by omega), if_neg (by omega)]

/-! ## Writes, class by class -/

theorem decodeImageWrite_invalid {a : Word16} (v : Byte) (h : 0x8000 ≤ a.toNat) :
    decodeImageWrite a v = .imgWrInvalid (BitVec.ofNat 15 (a.toNat - 0x8000)) v := by
  unfold decodeImageWrite
  dsimp only
  rw [if_pos h, ofNat_invalidAddr _ h]

theorem decodeImageWrite_mode {a : Word16} (v : Byte) (h : a.toNat = 0) : decodeImageWrite a v = .imgWrMode v := by
  unfold decodeImageWrite
  dsimp only
  rw [if_neg (by omega), if_pos h]

theorem decodeImageWrite_command {a : Word16} {n : SockId} (v : Byte) (h : a.toNat = snCr n) :
    decodeImageWrite a v = .imgWrSnCr n v := by
  have hn := ofNat_pageSocket 0x01 h
  unfold snCr sockBase at h
  unfold decodeImageWrite
  dsimp only
  rw [if_neg (by omega), if_neg (by omega), if_pos (by omega), hn]

theorem decodeImageWrite_plain {a : Word16} (v : Byte) (h0 : 0 < a.toNat) (hlt : a.toNat < 0x8000)
    (hcr : ∀ n, a.toNat ≠ snCr n) : decodeImageWrite a v = .imgWrPlain (BitVec.ofNat 15 a.toNat) v := by
  have hnot : ¬ (a.toNat / 0x400 = 1 ∧ a.toNat % 0x100 = 1) := by
    intro h
    refine hcr (Fin.ofNat 4 (a.toNat / 0x100)) ?_
    unfold snCr sockBase
    rw [Fin.val_ofNat]
    omega
  unfold decodeImageWrite
  dsimp only
  rw [if_neg (by omega), if_neg (by omega), if_neg hnot]

/-- Settles O5: the classes of each path, one by one. -/
theorem imageClasses : Obligations.ImageClasses :=
  ⟨fun _ => ⟨decodeImageRead_invalid, fun _ _ => decodeImageRead_page, fun _ _ => decodeImageRead_window,
      decodeImageRead_plain⟩,
    fun _ v => ⟨decodeImageWrite_invalid v, decodeImageWrite_mode v, fun _ => decodeImageWrite_command v,
      decodeImageWrite_plain v⟩⟩

/-! ## Accesses with no side effect (40 R174, R175, R184) -/

@[simp] theorem exec_imgRdPlain (s : State) (a : BitVec 15) :
    exec (.imgRdPlain a) s = .next (s.deliver (s.peek a.toNat)) := rfl

/-- Settles O14: the class of the address, and the arm of its read. -/
theorem plainRead : Obligations.PlainRead := by
  intro a s h
  have ha16 : (BitVec.ofNat 16 a).toNat = a := by rw [BitVec.toNat_ofNat]; omega
  have ha15 : (BitVec.ofNat 15 a).toNat = a := by rw [BitVec.toNat_ofNat]; omega
  constructor
  · rw [decodeImageRead_plain (by rwa [ha16]), ha16]
  · rw [exec_imgRdPlain, ha15]
    rfl

@[simp] theorem exec_imgRdRxwin (s : State) (n : SockId) (i : BitVec 11) :
    exec (.imgRdRxwin n i) s = .next (s.deliver (s.window n i.toNat)) := rfl

/-- Settles O15: the class of the address, and the index, which is below the window's 2048. -/
theorem windowRead : Obligations.WindowRead := by
  intro n i s
  have hi := i.isLt
  constructor
  · refine decodeImageRead_window ?_
    rw [BitVec.toNat_ofNat]
    unfold rxBase
    omega
  · rw [exec_imgRdRxwin, State.window, Nat.mod_eq_of_lt hi]
    rfl

/-- A store leaves every other byte of the image. -/
theorem keepsOutside_poke (s : State) (a : Nat) (v : Byte) : s.keepsOutside (s.poke a v) (· = a) :=
  fun b hb => by rw [peek_poke, if_neg hb]

@[simp] theorem exec_imgWrPlain (s : State) (a : BitVec 15) (v : Byte) :
    exec (.imgWrPlain a v) s = .next (s.poke a.toNat v) := rfl

/-- Settles O17: a well-formed plain write is in the last class, and stores one byte. -/
theorem plainWrite : Obligations.PlainWrite := by
  intro a v s
  refine ⟨fun hw => ?_, s.poke a.toNat v, exec_imgWrPlain s a v, peek_poke_same s _ v, keepsOutside_poke s _ v, rfl⟩
  obtain ⟨h0, hcr⟩ := (plainWrite_iff a).mp hw
  have ha := a.isLt
  have ha16 : (BitVec.ofNat 16 a.toNat).toNat = a.toNat := by rw [BitVec.toNat_ofNat]; omega
  rw [decodeImageWrite_plain v (by omega) (by omega) (by rwa [ha16]), ha16, BitVec.ofNat_toNat, BitVec.setWidth_eq]

/-! ## The card's ROM window (40 R161) -/

/-- Settles O8: the byte does not depend on the state, and the word is packed from the read. -/
theorem cardRomReads : Obligations.CardRomReads := by
  intro p s
  refine ⟨rfl, fun c => ?_⟩
  have hp : BitVec.ofNat 24 (0x40000 + 0x100 * p.toNat) = packAccess ⟨false, true, false, p, 0⟩ := by
    simp [packAccess, Nat.mul_comm]
  rw [hp]
  simp only [decode, unpack_pack ⟨false, true, false, p, 0⟩ (fun _ => rfl) (fun h => by cases h)]
  rfl

end Sys2Proof.Machine
end

section
/-! The mode register (40 R162, R182; 70 R390). -/

namespace Sys2Proof.Machine

variable (s : State) {v : Byte}

/-- Bit 7 of a byte, by its mask. -/
theorem and_0x80_eq_zero_iff (v : Byte) : v &&& 0x80 = 0 ↔ v.getLsbD 7 = false := by
  revert v
  decide

/-- With bit 7 clear a mode write is a store of the byte. -/
theorem writeMode_of_store (h : v.getLsbD 7 = false) : s.writeMode v = s.poke 0 v :=
  ((writeMode_cases s v).resolve_left fun ⟨hne, _⟩ => hne ((and_0x80_eq_zero_iff v).mpr h)).2

/-- With bit 7 set a mode write is a reset and then a store of the low seven bits (D10). -/
theorem writeMode_of_reset (h : v.getLsbD 7 = true) : s.writeMode v = s.w5100Reset.poke 0 (v &&& 0x7F) :=
  ((writeMode_cases s v).resolve_right fun ⟨h0, _⟩ => by
    rw [(and_0x80_eq_zero_iff v).mp h0] at h
    cases h).2

@[simp] theorem exec_u2WrMode (v : Byte) : exec (.u2WrMode v) s = .next (s.writeMode v) := rfl

@[simp] theorem exec_imgWrMode (v : Byte) : exec (.imgWrMode v) s = .next (s.writeMode v) := rfl

/-- What a mode write that resets leaves untouched: the mouse card, the parameters, and the model's own
fields but for the count of resets and the call log (70 R392). -/
theorem w5100Reset_poke_restore (a : Nat) (b : Byte) :
    { s.w5100Reset.poke a b with
      mem := s.mem, socks := s.socks, venv := s.venv, addrPtr := s.addrPtr, resets := s.resets
      envLog := s.envLog } = s := by
  simp

/-- Settles O11: a store, or a reset and then a store, from both paths. -/
theorem modeWrites : Obligations.ModeWrites := by
  intro v s
  refine ⟨fun h => ?_, fun h => ?_⟩
  · have hw := writeMode_of_store s h
    exact ⟨s.poke 0 v, by rw [exec_u2WrMode, hw], by rw [exec_imgWrMode, hw], peek_poke_same s 0 v,
      keepsOutside_poke s 0 v, rfl⟩
  · have hw := writeMode_of_reset s h
    have himage : State.reset.keepsOutside (s.w5100Reset.poke 0 (v &&& 0x7F)) (· = 0) :=
      keepsOutside_poke s.w5100Reset 0 _
    exact ⟨s.w5100Reset.poke 0 (v &&& 0x7F), by rw [exec_u2WrMode, hw], by rw [exec_imgWrMode, hw],
      peek_poke_same _ 0 _, himage, fun n => (poke_sock _ _ _ n).trans (w5100Reset_sock s n), rfl, rfl, rfl,
      w5100Reset_envLog s, w5100Reset_poke_restore s 0 _⟩

end Sys2Proof.Machine
end

section
/-! The socket pages: a read runs the polls (40 R172), a write of a command register the command (40 R183). -/

namespace Sys2Proof.Machine

variable (s : State) (n : SockId)

/-! ## Reads of a page -/

@[simp] theorem exec_pollSocket : exec (.pollSocket n) s = .next (s.socketPoll n) := rfl

@[simp] theorem exec_pollVtcp : exec .pollVtcp s = .next s.virtualTcpPoll := rfl

/-- The polls of a page read are the two poll operations, the second where the socket is in MACRAW mode. -/
theorem polls_eq_pagePoll :
    (if ((s.socketPoll n).sock n).macraw then exec .pollVtcp (s.socketPoll n) else .next (s.socketPoll n))
      = .next (s.pagePoll n) := by
  unfold State.pagePoll
  dsimp only
  split <;> rfl

/-- Outside the two computed registers a page shows the stored byte (40 R172). -/
theorem pageByte_of_stored {o : Byte} (h : WellFormed.computedOffset o = false) :
    s.pageByte n o = .ok (s.peek (sockBase n + o.toNat)) := by
  simp only [WellFormed.computedOffset, Bool.or_eq_false_iff, beq_eq_false_iff_ne] at h
  obtain ⟨⟨⟨h20, h21⟩, h26⟩, h27⟩ := h
  unfold State.pageByte
  rw [if_neg (by tauto), if_neg (by tauto)]

theorem exec_imgRdSockreg {o : Byte} (h : WellFormed (.imgRdSockreg n o) = true) :
    exec (.imgRdSockreg n o) s = .next ((s.pagePoll n).deliver ((s.pagePoll n).peek (sockBase n + o.toNat))) := by
  have hb := pageByte_of_stored (s.pagePoll n) n (o := o) (by simpa [WellFormed] using h)
  simp only [exec, execImgRdSockreg, State.readPage, hb, readOutcome]

/-- Settles O21: the polls as operations of their own, then the stored byte of the state they leave. -/
theorem pageRead : Obligations.PageRead := fun n _ s =>
  ⟨s.socketPoll n, s.pagePoll n, exec_pollSocket s n, polls_eq_pagePoll s n, exec_imgRdSockreg s n⟩

/-! ## Writes of a command register -/

/-- The operation that a command byte decodes to under the conditions of the state does what the
dispatcher does with the byte (41 R200). -/
theorem exec_decodeCommand (c : Byte) : exec (decodeCommand (s.cond n) n c) s = outcome (s.dispatchCommand n c) := by
  have hk : (s.cond n).openKind = openKindOf s.params n (s.peek (snMr n)) := rfl
  have hm : (s.cond n).statusMacraw = true ↔ s.status n = srMacraw := beq_iff_eq
  unfold decodeCommand State.dispatchCommand
  rw [hk]
  simp only [hm]
  split_ifs
  case pos => cases openKindOf s.params n (s.peek (snMr n)) <;> rfl
  all_goals rfl

/-- RECV under its precondition is not refused (41 R210). -/
theorem recv_ne_error {x : Refusal} (h : s.recvReady n) : s.recv n ≠ .error x := by
  obtain ⟨fill, hfill, hle⟩ := h
  intro e
  rcases (recv_error_iff s n x).mp e with ⟨hbelow, -⟩ | ⟨f, hf, hlt, -⟩
  · rw [(rsr_eq_none_iff _).mpr hbelow] at hfill
    cases hfill
  · rw [hfill] at hf
    cases hf
    omega

/-- The only command that is refused is RECV, so under RECV's precondition every command completes. -/
theorem dispatchCommand_completes {c : Byte} (h : c = 0x40 → s.recvReady n) : ∃ t, s.dispatchCommand n c = .ok t := by
  cases e : s.dispatchCommand n c with
  | ok t => exact ⟨t, rfl⟩
  | error x =>
    obtain ⟨hc, hr⟩ := (dispatchCommand_error_iff s n c x).mp e
    exact absurd hr (recv_ne_error s n (h hc))

theorem outcome_eq_refused_iff {e : Except Refusal State} {x : Refusal} : outcome e = .refused x ↔ e = .error x := by
  cases e <;> simp [outcome]

/-- A write of a command register, where the command completes: the command, then 0 stored (40 R183). -/
theorem exec_imgWrSnCr_of_ok {v : Byte} {t : State} (h : s.dispatchCommand n v = .ok t) :
    exec (.imgWrSnCr n v) s = .next (t.poke (snCr n) 0) :=
  outcome_eq_next_iff.mpr (writeCommand_eq_ok_iff.mpr ⟨t, h, rfl⟩)

/-- A write of a command register is refused where the command is. -/
theorem exec_imgWrSnCr_of_error {v : Byte} {x : Refusal} (h : s.dispatchCommand n v = .error x) :
    exec (.imgWrSnCr n v) s = .refused x :=
  outcome_eq_refused_iff.mpr ((writeCommand_error_iff s n v x).mpr ((dispatchCommand_error_iff s n v x).mp h))

/-- Settles O24: the decoded command and the write run the same dispatcher, and the write then stores 0. -/
theorem commandRegisterWrite : Obligations.CommandRegisterWrite := by
  intro n v s
  rw [exec_decodeCommand]
  refine ⟨fun h => ?_, fun x hx => exec_imgWrSnCr_of_error s n (outcome_eq_refused_iff.mp hx)⟩
  obtain ⟨t, ht⟩ := dispatchCommand_completes s n h
  exact ⟨t, t.poke (snCr n) 0, outcome_eq_next_iff.mpr ht, exec_imgWrSnCr_of_ok s n ht, peek_poke_same t _ 0,
    keepsOutside_poke t _ 0, rfl⟩

end Sys2Proof.Machine
end

section
/-! The Data port: an image access at the pointer, and then the post-increment (40 R168, R169, R176). -/

namespace Sys2Proof.Machine

variable (s : State)

/-! ## The image access at an address -/

/-- The operation that a read address decodes to reads as the bus-read path does: the decoder's classes
are the path's, and the rows of a socket's page are reads of the page at its offsets (40 R170, 30 R132). -/
theorem exec_decodeImageRead (a : Word16) : exec (decodeImageRead a) s = readOutcome (s.memRead a) := by
  have hpair {high low : Byte} (k : Nat) (hhigh : high.toNat = 2 * k) (hlow : low.toNat = 2 * k + 1)
      (hk : a.toNat % 0x100 / 2 = k) : BitVec.ofNat 8 a.toNat = if a.toNat % 2 == 1 then low else high :=
    ofNat_pageOffset (toNat_pairOffset hhigh hlow hk).symm
  unfold decodeImageRead State.memRead
  dsimp only
  split_ifs with hinvalid hpage htx hrx hwindow
  · rfl
  · rw [hpair (high := 0x20) (low := 0x21) 0x10 rfl rfl htx]; rfl
  · rw [hpair (high := 0x26) (low := 0x27) 0x13 rfl rfl hrx]; rfl
  · rfl
  · have hi : (BitVec.ofNat 11 a.toNat).toNat % 2048 = a.toNat % 2048 := by rw [BitVec.toNat_ofNat]; omega
    rw [exec_imgRdRxwin, State.window, hi]
    rfl
  · have ha : (BitVec.ofNat 15 a.toNat).toNat = a.toNat := by rw [BitVec.toNat_ofNat]; omega
    rw [exec_imgRdPlain, ha]
    rfl

/-- The operation that a write address decodes to writes as the bus-write path does (40 R180, 30 R133). -/
theorem exec_decodeImageWrite (a : Word16) (v : Byte) :
    exec (decodeImageWrite a v) s = outcome (s.memWrite a v) := by
  unfold decodeImageWrite State.memWrite
  dsimp only
  split_ifs with hinvalid hmode hcommand
  · rfl
  · rfl
  · rfl
  · have ha : (BitVec.ofNat 15 a.toNat).toNat = a.toNat := by rw [BitVec.toNat_ofNat]; omega
    rw [exec_imgWrPlain, ha]
    rfl

/-! ## Where it completes -/

/-- A read of the bus-read path completes unless it is one of Sn_RX_RSR with no value (93 U14). -/
theorem memRead_completes {a : Word16} (h : ∀ n low, decodeImageRead a = .imgRdRxRsr n low → s.fillDefined n) :
    ∃ r, s.memRead a = .ok r := by
  cases e : s.memRead a with
  | ok r => exact ⟨r, rfl⟩
  | error x =>
    obtain ⟨n, ha, hbelow, -⟩ := (memRead_error_iff s a x).mp e
    have hfill : s.fillDefined n := by
      rcases ha with ha | ha
      · exact h n false (decodeImageRead_page (o := 0x26) ha)
      · exact h n true (decodeImageRead_page (o := 0x27) ha)
    obtain ⟨fill, hrsr⟩ := pagePoll_rsr s n hfill
    rw [(rsr_eq_none_iff _).mpr hbelow] at hrsr
    cases hrsr

/-- A write of the bus-write path completes unless it is a RECV without its precondition (93 U4, U14). -/
theorem memWrite_completes {a : Word16} {v : Byte}
    (h : ∀ n, decodeImageWrite a v = .imgWrSnCr n v → v = 0x40 → s.recvReady n) : ∃ t, s.memWrite a v = .ok t := by
  cases e : s.memWrite a v with
  | ok t => exact ⟨t, rfl⟩
  | error x =>
    obtain ⟨n, ha, hv, hr⟩ := (memWrite_error_iff s a v x).mp e
    exact absurd hr (recv_ne_error s n (h n (decodeImageWrite_command v ha) hv))

/-! ## The post-increment after it (D6) -/

theorem readOutcome_eq_next_iff {e : ReadResult} {t : State} :
    readOutcome e = .next t ↔ ∃ r, e = .ok r ∧ t = r.2.deliver r.1 := by
  cases e <;> simp [readOutcome, eq_comm]

theorem readOutcome_eq_refused_iff {e : ReadResult} {x : Refusal} : readOutcome e = .refused x ↔ e = .error x := by
  cases e <;> simp [readOutcome]

/-- The delivery and the post-increment after an image read do not see each other. -/
theorem postIncrement_deliver (b : Byte) :
    s.postIncrement.deliver b =
      { s.deliver b with addrPtr := nextPtr ((s.deliver b).peek 0) (s.deliver b).addrPtr } := by
  rw [postIncrement_eq, deliver_peek, deliver_addrPtr]
  rfl

/-- A Data read, where the image read at the pointer completes. -/
theorem exec_u2RdData_of_next {t : State} (h : exec (decodeImageRead s.addrPtr) s = .next t) :
    exec .u2RdData s = .next { t with addrPtr := nextPtr (t.peek 0) t.addrPtr } := by
  rw [exec_decodeImageRead, readOutcome_eq_next_iff] at h
  obtain ⟨r, hr, rfl⟩ := h
  rw [← postIncrement_deliver]
  simp only [exec, execU2RdData, hr]

/-- A Data read is refused where the image read at the pointer is. -/
theorem exec_u2RdData_of_refused {x : Refusal} (h : exec (decodeImageRead s.addrPtr) s = .refused x) :
    exec .u2RdData s = .refused x := by
  rw [exec_decodeImageRead, readOutcome_eq_refused_iff] at h
  simp only [exec, execU2RdData, h]

/-- A Data write, where the image write at the pointer completes. -/
theorem exec_u2WrData_of_next {v : Byte} {t : State} (h : exec (decodeImageWrite s.addrPtr v) s = .next t) :
    exec (.u2WrData v) s = .next { t with addrPtr := nextPtr (t.peek 0) t.addrPtr } := by
  rw [exec_decodeImageWrite, outcome_eq_next_iff] at h
  rw [← postIncrement_eq]
  simp only [exec, execU2WrData, h]

/-- A Data write is refused where the image write at the pointer is. -/
theorem exec_u2WrData_of_refused {v : Byte} {x : Refusal}
    (h : exec (decodeImageWrite s.addrPtr v) s = .refused x) : exec (.u2WrData v) s = .refused x := by
  rw [exec_decodeImageWrite, outcome_eq_refused_iff] at h
  simp only [exec, execU2WrData, h]

/-- Settles O18: the image read completes where it has a value, and the Data read follows it. -/
theorem dataPortReads : Obligations.DataPortReads := by
  intro s
  refine ⟨fun h => ?_, fun _ => exec_u2RdData_of_refused s⟩
  obtain ⟨r, hr⟩ := memRead_completes s h
  have ht : exec (decodeImageRead s.addrPtr) s = .next (r.2.deliver r.1) := by
    rw [exec_decodeImageRead, hr]
    rfl
  exact ⟨_, ht, exec_u2RdData_of_next s ht⟩

/-- Settles O19: the image write completes under RECV's precondition, and the Data write follows it. -/
theorem dataPortWrites : Obligations.DataPortWrites := by
  intro v s
  refine ⟨fun h => ?_, fun _ => exec_u2WrData_of_refused s⟩
  obtain ⟨t, ht⟩ := memWrite_completes s h
  have hw : exec (decodeImageWrite s.addrPtr v) s = .next t := by rw [exec_decodeImageWrite, ht]; rfl
  exact ⟨t, hw, exec_u2WrData_of_next s hw⟩

/-! ## The invalid range (40 R171, R181) -/

@[simp] theorem exec_imgRdInvalid (a : BitVec 15) : exec (.imgRdInvalid a) s = .next (s.deliver 0) := rfl

@[simp] theorem exec_imgWrInvalid (a : BitVec 15) (v : Byte) : exec (.imgWrInvalid a v) s = .next s := rfl

/-- Settles O16: the class of the addresses, its two accesses, and the Data accesses that follow them (D7). -/
theorem invalidAddresses : Obligations.InvalidAddresses := by
  intro a v s
  have ha := a.isLt
  have hlow : BitVec.ofNat 15 (0x8000 + a.toNat - 0x8000) = a := by
    rw [Nat.add_sub_cancel_left, BitVec.ofNat_toNat, BitVec.setWidth_eq]
  have h16 : (BitVec.ofNat 16 (0x8000 + a.toNat)).toNat = 0x8000 + a.toNat := by rw [BitVec.toNat_ofNat]; omega
  have hread {b : Word16} (hb : b.toNat = 0x8000 + a.toNat) : decodeImageRead b = .imgRdInvalid a := by
    rw [decodeImageRead_invalid (by omega), hb, hlow]
  have hwrite {b : Word16} (hb : b.toNat = 0x8000 + a.toNat) : decodeImageWrite b v = .imgWrInvalid a v := by
    rw [decodeImageWrite_invalid v (by omega), hb, hlow]
  refine ⟨hread h16, hwrite h16, exec_imgRdInvalid s a, exec_imgWrInvalid s a v, fun hp => ⟨?_, ?_⟩⟩
  · exact exec_u2RdData_of_next s (by rw [hread hp]; exact exec_imgRdInvalid s a)
  · exact exec_u2WrData_of_next s (by rw [hwrite hp]; exact exec_imgWrInvalid s a v)

end Sys2Proof.Machine
end

section
/-! The decoder undoes the encoder (30 R122 to R133, R142, R151): a well-formed operation that the conditions select is what its request decodes to. -/

namespace Sys2Proof

variable {c : Cond}

/-! ## Soft switches (30 R130, R150) -/

/-- A soft switch is its block's first one and the bits within the block. -/
theorem toNat_switch {w k : Nat} {s : BitVec w} (h : s.toNat + k < 16) :
    (BitVec.ofNat 8 (s.toNat + k)).toNat = s.toNat + k := by
  rw [BitVec.toNat_ofNat]
  omega

theorem toNat_switch_low (s : BitVec 2) : (BitVec.ofNat 8 s.toNat).toNat = s.toNat :=
  toNat_switch (k := 0) (by omega)

/-- The bits within a block of soft switches, which starts at a multiple of its size. -/
theorem ofNat_switch {w k : Nat} (s : BitVec w) (hk : k % 2 ^ w = 0) : BitVec.ofNat w (s.toNat + k) = s := by
  apply BitVec.eq_of_toNat_eq
  rw [BitVec.toNat_ofNat, Nat.add_mod, hk, Nat.add_zero, Nat.mod_mod, Nat.mod_eq_of_lt s.isLt]

theorem decodeU2Read_low (s : BitVec 2) : decodeU2Read (BitVec.ofNat 8 s.toNat) = .u2RdUnassignedLow s := by
  have hs := s.isLt
  unfold decodeU2Read
  rw [toNat_switch_low, if_pos (by omega), BitVec.ofNat_toNat, BitVec.setWidth_eq]

theorem decodeU2Read_high (s : BitVec 3) : decodeU2Read (BitVec.ofNat 8 (s.toNat + 8)) = .u2RdUnassignedHigh s := by
  have hs := s.isLt
  unfold decodeU2Read
  rw [toNat_switch (by omega), if_neg (by omega), if_neg (by omega), if_neg (by omega), if_neg (by omega),
    if_neg (by omega), ofNat_switch s rfl]

theorem decodeU2Write_low (s : BitVec 2) (v : Byte) :
    decodeU2Write (BitVec.ofNat 8 s.toNat) v = .u2WrUnassignedLow s v := by
  have hs := s.isLt
  unfold decodeU2Write
  rw [toNat_switch_low, if_pos (by omega), BitVec.ofNat_toNat, BitVec.setWidth_eq]

theorem decodeU2Write_high (s : BitVec 3) (v : Byte) :
    decodeU2Write (BitVec.ofNat 8 (s.toNat + 8)) v = .u2WrUnassignedHigh s v := by
  have hs := s.isLt
  unfold decodeU2Write
  rw [toNat_switch (by omega), if_neg (by omega), if_neg (by omega), if_neg (by omega), if_neg (by omega),
    if_neg (by omega), ofNat_switch s rfl]

/-- The read of a register of the 6821 under the conditions (30 R151). -/
def Cond.registerRead (c : Cond) : PiaSel → Instr
  | .portA => if c.dataA then .piaRdOra else .piaRdDdra
  | .ctlA => .piaRdCra
  | .portB => if c.dataB then .piaRdOrb else .piaRdDdrb
  | .ctlB => .piaRdCrb

/-- The write of a register of the 6821 under the conditions (30 R151). -/
def Cond.registerWrite (c : Cond) (v : Byte) : PiaSel → Instr
  | .portA => if c.dataA then .piaWrOra v else .piaWrDdra v
  | .ctlA => .piaWrCra v
  | .portB => if c.dataB then .piaWrOrb v else .piaWrDdrb v
  | .ctlB => .piaWrCrb v

theorem toNat_offsetOf (m : PiaMap) (r : PiaSel) : (BitVec.ofNat 8 (m.offsetOf r)).toNat = m.offsetOf r := by
  have := offsetOf_lt m r
  rw [BitVec.toNat_ofNat]
  omega

/-- The soft switch found for a register reads that register. -/
theorem decodePiaRead_offsetOf (hm : c.rsMap.onto = true) (r : PiaSel) :
    decodePiaRead c (BitVec.ofNat 8 (c.rsMap.offsetOf r)) = c.registerRead r := by
  unfold decodePiaRead
  rw [toNat_offsetOf, if_pos (offsetOf_lt _ r), select_offsetOf hm]
  cases r <;> rfl

/-- The soft switch found for a register writes that register. -/
theorem decodePiaWrite_offsetOf (hm : c.rsMap.onto = true) (r : PiaSel) (v : Byte) :
    decodePiaWrite c (BitVec.ofNat 8 (c.rsMap.offsetOf r)) v = c.registerWrite v r := by
  unfold decodePiaWrite
  rw [toNat_offsetOf, if_pos (offsetOf_lt _ r), select_offsetOf hm]
  cases r <;> rfl

theorem decodePiaRead_low (s : BitVec 2) :
    decodePiaRead c (BitVec.ofNat 8 (s.toNat + 4)) = .piaRdUnassignedLow s := by
  have hs := s.isLt
  unfold decodePiaRead
  rw [toNat_switch (by omega), if_neg (by omega), if_pos (by omega), ofNat_switch s rfl]

theorem decodePiaRead_high (s : BitVec 3) :
    decodePiaRead c (BitVec.ofNat 8 (s.toNat + 8)) = .piaRdUnassignedHigh s := by
  have hs := s.isLt
  unfold decodePiaRead
  rw [toNat_switch (by omega), if_neg (by omega), if_neg (by omega), ofNat_switch s rfl]

theorem decodePiaWrite_low (s : BitVec 2) (v : Byte) :
    decodePiaWrite c (BitVec.ofNat 8 (s.toNat + 4)) v = .piaWrUnassignedLow s v := by
  have hs := s.isLt
  unfold decodePiaWrite
  rw [toNat_switch (by omega), if_neg (by omega), if_pos (by omega), ofNat_switch s rfl]

theorem decodePiaWrite_high (s : BitVec 3) (v : Byte) :
    decodePiaWrite c (BitVec.ofNat 8 (s.toNat + 8)) v = .piaWrUnassignedHigh s v := by
  have hs := s.isLt
  unfold decodePiaWrite
  rw [toNat_switch (by omega), if_neg (by omega), if_neg (by omega), ofNat_switch s rfl]

/-! ## Bus accesses (30 R122) -/

/-- An access that satisfies 30 R122 is decoded from its word. -/
theorem decode_busWord (c : Cond) {card space rw : Bool} {off val : Byte} (hread : rw = false → val = 0)
    (hswitch : space = false → off.toNat < 16) :
    decode c (busWord card space rw off val) = .ok (decodeAccess c ⟨card, space, rw, off, val⟩) := by
  rw [busWord, decode, unpack_pack ⟨card, space, rw, off, val⟩ hread hswitch]

/-- Every access to a ROM window satisfies 30 R122 (40 R161, R177, 43 R271, R272). -/
theorem decode_romWord (c : Cond) (card : Bool) {rw : Bool} {off val : Byte} (hread : rw = false → val = 0) :
    decode c (busWord card true rw off val) = .ok (decodeAccess c ⟨card, true, rw, off, val⟩) :=
  decode_busWord c hread (fun h => by cases h)

/-- A soft switch is read as the card's map says, under any conditions that make it that operation. -/
theorem decode_switchRead (c : Cond) {card : Bool} {off : Byte} {i : Instr} (hswitch : off.toNat < 16)
    (hi : decodeAccess c ⟨card, false, false, off, 0⟩ = i) : decode c (busWord card false false off 0) = .ok i :=
  hi ▸ decode_busWord c (fun _ => rfl) (fun _ => hswitch)

/-- A soft switch is written as the card's map says, under any conditions that make it that operation. -/
theorem decode_switchWrite (c : Cond) {card : Bool} {off val : Byte} {i : Instr} (hswitch : off.toNat < 16)
    (hi : decodeAccess c ⟨card, false, true, off, val⟩ = i) : decode c (busWord card false true off val) = .ok i :=
  hi ▸ decode_busWord c (fun h => by cases h) (fun _ => hswitch)

/-- The switch found for a register of the 6821 is decoded to the read of it. -/
theorem decode_registerRead (hm : c.rsMap.onto = true) {r : PiaSel} {i : Instr} (hi : c.registerRead r = i) :
    decode c (busWord true false false (BitVec.ofNat 8 (c.rsMap.offsetOf r)) 0) = .ok i :=
  decode_switchRead c (by have := offsetOf_lt c.rsMap r; rw [toNat_offsetOf]; omega)
    ((decodePiaRead_offsetOf hm r).trans hi)

/-- The switch found for a register of the 6821 is decoded to the write of it. -/
theorem decode_registerWrite (hm : c.rsMap.onto = true) {r : PiaSel} {v : Byte} {i : Instr}
    (hi : c.registerWrite v r = i) :
    decode c (busWord true false true (BitVec.ofNat 8 (c.rsMap.offsetOf r)) v) = .ok i :=
  decode_switchWrite c (by have := offsetOf_lt c.rsMap r; rw [toNat_offsetOf]; omega)
    ((decodePiaWrite_offsetOf hm r v).trans hi)

/-! ## Image addresses (30 R125, R132, R133) -/

/-- An address of the invalid range, encoded from its low 15 bits. -/
theorem toNat_highAddr (a : BitVec 15) : (BitVec.ofNat 16 (a.toNat + 0x8000)).toNat = a.toNat + 0x8000 := by
  have := a.isLt
  rw [BitVec.toNat_ofNat]
  omega

/-- An address below 0x8000, encoded from its low 15 bits. -/
theorem toNat_lowAddr (a : BitVec 15) : (BitVec.ofNat 16 a.toNat).toNat = a.toNat := by
  have := a.isLt
  rw [BitVec.toNat_ofNat]
  omega

theorem pageAddr_eq_sockBase (n : SockId) (o : Byte) :
    (pageAddr n o).toNat = Machine.sockBase n + o.toNat := by
  rw [pageAddr_toNat, Machine.sockBase, Nat.mul_comm]

theorem decodeImageRead_highAddr (a : BitVec 15) :
    decodeImageRead (BitVec.ofNat 16 (a.toNat + 0x8000)) = .imgRdInvalid a := by
  rw [Machine.decodeImageRead_invalid (by rw [toNat_highAddr]; omega), toNat_highAddr, Nat.add_sub_cancel,
    BitVec.ofNat_toNat, BitVec.setWidth_eq]

theorem decodeImageRead_lowAddr {a : BitVec 15} (h : WellFormed.plainRead a = true) :
    decodeImageRead (BitVec.ofNat 16 a.toNat) = .imgRdPlain a := by
  simp only [WellFormed.plainRead, Bool.and_eq_true, Bool.not_eq_true', Bool.and_eq_false_iff,
    decide_eq_false_iff_not] at h
  rw [Machine.decodeImageRead_plain (by rw [toNat_lowAddr]; omega), toNat_lowAddr, BitVec.ofNat_toNat,
    BitVec.setWidth_eq]

theorem decodeImageRead_windowAddr (n : SockId) (k : BitVec 11) :
    decodeImageRead (BitVec.ofNat 16 (0x6000 + n.val * 0x800 + k.toNat)) = .imgRdRxwin n k := by
  have := k.isLt
  refine Machine.decodeImageRead_window ?_
  rw [BitVec.toNat_ofNat, Machine.rxBase]
  omega

/-- Outside the two computed registers an offset of a page is decoded to the read of its stored byte. -/
theorem decodeImageRead_storedAddr (n : SockId) {o : Byte} (h : WellFormed.computedOffset o = false) :
    decodeImageRead (pageAddr n o) = .imgRdSockreg n o := by
  simp only [WellFormed.computedOffset, Bool.or_eq_false_iff, beq_eq_false_iff_ne] at h
  obtain ⟨⟨⟨h20, h21⟩, h26⟩, h27⟩ := h
  rw [Machine.decodeImageRead_page (pageAddr_eq_sockBase n o), if_neg (by tauto), if_neg (by tauto)]

theorem decodeImageRead_txFsrAddr (n : SockId) (low : Bool) :
    decodeImageRead (pageAddr n (if low then 0x21 else 0x20)) = .imgRdTxFsr n low := by
  rw [Machine.decodeImageRead_page (pageAddr_eq_sockBase n _)]
  cases low <;> rfl

theorem decodeImageRead_rxRsrAddr (n : SockId) (low : Bool) :
    decodeImageRead (pageAddr n (if low then 0x27 else 0x26)) = .imgRdRxRsr n low := by
  rw [Machine.decodeImageRead_page (pageAddr_eq_sockBase n _)]
  cases low <;> rfl

theorem decodeImageWrite_highAddr (a : BitVec 15) (v : Byte) :
    decodeImageWrite (BitVec.ofNat 16 (a.toNat + 0x8000)) v = .imgWrInvalid a v := by
  rw [Machine.decodeImageWrite_invalid _ (by rw [toNat_highAddr]; omega), toNat_highAddr, Nat.add_sub_cancel,
    BitVec.ofNat_toNat, BitVec.setWidth_eq]

theorem decodeImageWrite_lowAddr {a : BitVec 15} (v : Byte) (h : WellFormed.plainWrite a = true) :
    decodeImageWrite (BitVec.ofNat 16 a.toNat) v = .imgWrPlain a v := by
  have ha := a.isLt
  obtain ⟨h0, hcr⟩ := (plainWrite_iff a).mp h
  rw [Machine.decodeImageWrite_plain _ (by rw [toNat_lowAddr]; omega) (by rw [toNat_lowAddr]; omega)
    (by rwa [toNat_lowAddr]), toNat_lowAddr, BitVec.ofNat_toNat, BitVec.setWidth_eq]

/-! ## Command bytes (30 R142, 41 R200) -/

/-- A byte that no row lists is decoded to itself. -/
theorem decodeCommand_unlisted (n : SockId) {b : Byte} (h : WellFormed.listedCommand b = false) :
    decodeCommand c n b = .cmdUnlisted n b := by
  simp only [WellFormed.listedCommand, Bool.or_eq_false_iff, beq_eq_false_iff_ne] at h
  obtain ⟨⟨⟨⟨⟨⟨h01, h02⟩, h04⟩, h08⟩, h10⟩, h20⟩, h40⟩ := h
  unfold decodeCommand
  rw [if_neg h01, if_neg h02, if_neg h04, if_neg h08, if_neg h10, if_neg h20, if_neg h40]

/-! ## Requests -/

/-- Settles O3, operation by operation: an access word decodes by the map of its card, an image address by its
class, a command byte by its row; where rows share an encoding the conditions select the one. -/
theorem encodeThenDecode : Obligations.EncodeThenDecode := by
  intro c i hw hm hs
  cases i with
  | u2RdRom | piaRdRom => exact decode_romWord c _ (fun _ => rfl)
  | u2WrRom | piaWrRom => exact decode_romWord c _ (fun h => by cases h)
  | u2RdMode | u2RdArh | u2RdArl | u2RdData => exact decode_switchRead c (by decide) rfl
  | u2WrMode | u2WrArh | u2WrArl | u2WrData => exact decode_switchWrite c (by decide) rfl
  | u2RdUnassignedLow k =>
    exact decode_switchRead c (by rw [toNat_switch_low]; omega) (decodeU2Read_low k)
  | u2RdUnassignedHigh k =>
    exact decode_switchRead c (by rw [toNat_switch] <;> omega) (decodeU2Read_high k)
  | u2WrUnassignedLow k v =>
    exact decode_switchWrite c (by rw [toNat_switch_low]; omega) (decodeU2Write_low k v)
  | u2WrUnassignedHigh k v =>
    exact decode_switchWrite c (by rw [toNat_switch] <;> omega) (decodeU2Write_high k v)
  | imgRdInvalid a => exact congrArg Except.ok (decodeImageRead_highAddr a)
  | imgRdTxFsr n low => exact congrArg Except.ok (decodeImageRead_txFsrAddr n low)
  | imgRdRxRsr n low => exact congrArg Except.ok (decodeImageRead_rxRsrAddr n low)
  | imgRdSockreg n o => exact congrArg Except.ok (decodeImageRead_storedAddr n (by simpa [WellFormed] using hw))
  | imgRdRxwin n k => exact congrArg Except.ok (decodeImageRead_windowAddr n k)
  | imgRdPlain a => exact congrArg Except.ok (decodeImageRead_lowAddr hw)
  | imgWrInvalid a v => exact congrArg Except.ok (decodeImageWrite_highAddr a v)
  | imgWrMode v => exact congrArg Except.ok (Machine.decodeImageWrite_mode v rfl)
  | imgWrSnCr n v => exact congrArg Except.ok (Machine.decodeImageWrite_command v (pageAddr_eq_sockBase n 1))
  | imgWrPlain a v => exact congrArg Except.ok (decodeImageWrite_lowAddr v hw)
  | cmdOpenTcp | cmdOpenUdp | cmdOpenMacraw | cmdOpenOther =>
    have hk := beq_iff_eq.mp hs
    simp [encode, decode, decodeCommand, hk]
  | cmdSendMacraw => simp [encode, decode, decodeCommand, show c.statusMacraw = true from hs]
  | cmdSendTcp => simp [encode, decode, decodeCommand, show c.statusMacraw = false by simpa [Cond.selects] using hs]
  | cmdListen | cmdConnect | cmdDiscon | cmdClose | cmdRecv => rfl
  | cmdUnlisted n b => exact congrArg Except.ok (decodeCommand_unlisted n (by simpa [WellFormed] using hw))
  | piaRdOra => exact decode_registerRead hm (if_pos hs)
  | piaRdDdra => exact decode_registerRead hm (if_neg (by simpa [Cond.selects] using hs))
  | piaRdOrb => exact decode_registerRead hm (if_pos hs)
  | piaRdDdrb => exact decode_registerRead hm (if_neg (by simpa [Cond.selects] using hs))
  | piaRdCra | piaRdCrb => exact decode_registerRead hm rfl
  | piaWrOra v => exact decode_registerWrite hm (if_pos hs)
  | piaWrDdra v => exact decode_registerWrite hm (if_neg (by simpa [Cond.selects] using hs))
  | piaWrOrb v => exact decode_registerWrite hm (if_pos hs)
  | piaWrDdrb v => exact decode_registerWrite hm (if_neg (by simpa [Cond.selects] using hs))
  | piaWrCra | piaWrCrb => exact decode_registerWrite hm rfl
  | piaRdUnassignedLow k =>
    exact decode_switchRead c (by rw [toNat_switch] <;> omega) (decodePiaRead_low k)
  | piaRdUnassignedHigh k =>
    exact decode_switchRead c (by rw [toNat_switch] <;> omega) (decodePiaRead_high k)
  | piaWrUnassignedLow k v =>
    exact decode_switchWrite c (by rw [toNat_switch] <;> omega) (decodePiaWrite_low k v)
  | piaWrUnassignedHigh k v =>
    exact decode_switchWrite c (by rw [toNat_switch] <;> omega) (decodePiaWrite_high k v)
  | u2SetSlot | mouseSetSlot => exact if_pos hw
  | pollSocket | pollVtcp | mouseSetPosition | mouseSetButton | mouseGetState => rfl

end Sys2Proof
end

section
/-! The frame and the draws of an operation on one socket, composed from those of the shared operations. -/

namespace Sys2Proof.Machine

/-! ## The frame -/

variable {s t u : State} {n : SockId} {p : Nat → Prop}

theorem State.onlySocket.refl (s : State) (n : SockId) (p : Nat → Prop) : s.onlySocket s n p :=
  ⟨fun _ _ => rfl, fun _ _ => rfl, rfl, rfl⟩

theorem State.onlySocket.trans (h : s.onlySocket t n p) (k : t.onlySocket u n p) : s.onlySocket u n p := by
  obtain ⟨hi, ho, hv, ha⟩ := h
  obtain ⟨ki, ko, kv, ka⟩ := k
  exact ⟨fun a e => (ki a e).trans (hi a e), fun m e => (ko m e).trans (ho m e), kv.trans hv, ka.trans ha⟩

theorem State.onlySocket.keepsOutside (h : s.onlySocket t n p) : s.keepsOutside t p := by
  obtain ⟨himage, -⟩ := h
  exact himage

/-- A frame that names no byte keeps the image. -/
theorem State.onlySocket.keepsImage (h : s.onlySocket t n (fun _ => False)) : s.keepsImage t :=
  fun a => h.keepsOutside a not_false

/-- A frame that names no byte is a frame that names any. -/
theorem State.onlySocket.weaken (h : s.onlySocket t n (fun _ => False)) : s.onlySocket t n p :=
  ⟨fun a _ => h.keepsImage a, h.2⟩

theorem State.onlySocket.setSock (h : s.onlySocket t n p) (x : Sock) : s.onlySocket (t.setSock n x) n p :=
  h.trans ⟨fun a _ => setSock_peek t n x a, fun m e => by rw [sock_setSock, if_neg e], setSock_venv t n x,
    setSock_aside t n x⟩

theorem State.onlySocket.release (h : s.onlySocket t n p) : s.onlySocket (t.release n) n p :=
  h.trans ⟨fun a _ => release_peek t n a, fun m e => by rw [sock_release, if_neg e], release_venv t n,
    release_aside t n⟩

theorem State.onlySocket.nextAnswer (h : s.onlySocket t n p) : s.onlySocket t.nextAnswer.2 n p :=
  h.trans ⟨fun a _ => nextAnswer_peek t a, fun m _ => nextAnswer_sock t m, nextAnswer_venv t, nextAnswer_aside t⟩

theorem State.onlySocket.ask (h : s.onlySocket t n p) (c : EnvCall) : s.onlySocket (t.ask c).2 n p :=
  h.trans ⟨fun a _ => ask_peek t c a, fun m _ => ask_sock t c m, ask_venv t c, ask_aside t c⟩

theorem State.onlySocket.setStatus (h : s.onlySocket t n (· = snSr n)) (v : Byte) :
    s.onlySocket (t.setStatus n v) n (· = snSr n) :=
  h.trans ⟨keepsOutside_poke t _ v, fun m _ => setStatus_sock t n v m, setStatus_venv t n v, setStatus_aside t n v⟩

/-- A 16-bit store leaves every byte but the register's two. -/
theorem keepsOutside_put16 (s : State) (a : Nat) (v : Word16) : s.keepsOutside (s.put16 a v) (regBytes a) := by
  intro b hb
  unfold regBytes at hb
  rw [peek_put16, if_neg (by tauto), if_neg (by tauto)]

theorem State.onlySocket.put16 {a : Nat} (h : s.onlySocket t n (regBytes a)) (v : Word16) :
    s.onlySocket (t.put16 a v) n (regBytes a) :=
  h.trans ⟨keepsOutside_put16 t a v, fun m _ => put16_sock t a v m, put16_venv t a v, put16_aside t a v⟩

/-! ## The draws -/

variable {k : Nat}

/-- The draws depend on the scripts and the counts alone. -/
theorem State.drawn.congr (h : s.drawn t k) (hd : u.hostDraws = t.hostDraws) (hs : u.hostScript = t.hostScript)
    (vd : u.vnetDraws = t.vnetDraws) (vs : u.vnetScript = t.vnetScript) : s.drawn u k := by
  unfold State.drawn
  rw [hd, hs, vd, vs]
  exact h

theorem State.drawn.setSock (h : s.drawn t k) (n : SockId) (x : Sock) : s.drawn (t.setSock n x) k := h

theorem State.drawn.setStatus (h : s.drawn t k) (n : SockId) (v : Byte) : s.drawn (t.setStatus n v) k := h

theorem State.drawn.put16 (h : s.drawn t k) (a : Nat) (v : Word16) : s.drawn (t.put16 a v) k := h

theorem State.drawn.release (h : s.drawn t k) (n : SockId) : s.drawn (t.release n) k :=
  h.congr (release_hostDraws t n) (release_hostScript t n) (release_vnetDraws t n) (release_vnetScript t n)

theorem State.drawn.nextAnswer (h : s.drawn t k) : s.drawn t.nextAnswer.2 (k + 1) :=
  State.drawn_trans h (drawn_nextAnswer t)

theorem State.drawn.ask (h : s.drawn t k) (c : EnvCall) : s.drawn (t.ask c).2 (k + 1) :=
  State.drawn_trans h (drawn_ask t c)

/-! ## What stands after an update -/

variable (s n)

@[simp] theorem setStatus_status (v : Byte) : (s.setStatus n v).status n = v := by rw [status_setStatus, if_pos rfl]

/-- A release makes the socket's closing calls (41 R216). -/
@[simp] theorem release_envLog : (s.release n).envLog = s.closes n ++ s.envLog := envLog_release s n

@[simp] theorem nextAnswer_closes : s.nextAnswer.2.closes n = s.closes n := by simp [State.closes]

@[simp] theorem ask_closes (c : EnvCall) : (s.ask c).2.closes n = s.closes n := by simp [State.closes]

end Sys2Proof.Machine
end

section
/-! The socket commands OPEN, LISTEN, CONNECT, DISCON and CLOSE (41 R201 to R207), and the redirect rule (41 R214). -/

namespace Sys2Proof.Machine

variable {s : State} {n : SockId}

/-! ## OPEN (41 R201 to R203) -/

/-- OPEN with a host socket: the release, the call, and the handle that it answers. -/
theorem openHost_openedAs (s : State) (n : SockId) (call : EnvCall) (sr : Byte) :
    s.openedAs (s.openHost n call sr) n call sr := by
  have hframe : s.onlySocket ((s.release n).ask call).2 n (· = snSr n) :=
    (State.onlySocket.refl s n _).release.ask call
  have hdrawn : s.drawn ((s.release n).ask call).2 1 := ((drawn_refl s).release n).ask call
  unfold State.openHost
  simp only [State.openedAs, ask_fst, release_answerAt]
  cases hr : (s.answerAt 0).asHandle (s.release n).liveHandles with
  | none =>
    exact ⟨by simp, by simp [sock_release], by simp, hframe.setStatus _, hdrawn.setStatus n _, by simp⟩
  | some h =>
    refine ⟨by simp, by simp [sock_setHandle, sock_release], fun h' e => ?fresh, (hframe.setSock _).setStatus _,
      (hdrawn.setSock n _).setStatus n _, by simp⟩
    case fresh => exact fresh_of_asHandle_release s n (hr.trans e)

/-- Settles O26: both host sockets are opened alike; MACRAW is the release, the flag and the status. -/
theorem openCommands : Obligations.OpenCommands := by
  intro n s
  refine ⟨⟨s.openTcp n, rfl, openHost_openedAs s n _ _⟩, ⟨s.openUdp n, rfl, openHost_openedAs s n _ _⟩,
    s.openMacraw, rfl, setStatus_status _ 0 _, ?sock,
    ((State.onlySocket.refl s 0 _).release.setSock _).setStatus _,
    (((drawn_refl s).release 0).setSock 0 _).setStatus 0 _, release_envLog s 0⟩
  case sock => simp [State.openMacraw, sock_setMacraw, sock_release]

/-! ## LISTEN (41 R205) -/

/-- LISTEN where the host binds. -/
theorem listen_of_bound {h : Handle} (hi : s.status n = srInit) (hh : (s.sock n).handle = some h)
    (hok : (s.answerAt 0).isOk = true) :
    s.listen n = (s.ask (.bindListen h (s.get16 (snPort n)) 1)).2.setStatus n srListen := by
  simp [State.listen, hi, hh, hok]

/-- What follows a failed bind: a draw between keep and close (93 U2). -/
def State.listenFails (u : State) (n : SockId) : State :=
  if (u.answerAt 0).isClose then (u.nextAnswer.2.release n).setStatus n srClosed else u.nextAnswer.2

/-- LISTEN where the bind fails, in the state `u` that the failed bind leaves: with no handle it fails without
a call. -/
theorem listen_of_failed {k : Nat} {calls : List EnvCall} (hi : s.status n = srInit)
    (hk : ((s.sock n).handle = none ∧ k = 0 ∧ calls = [])
      ∨ (∃ h, (s.sock n).handle = some h ∧ (s.answerAt 0).isOk = false ∧ k = 1
        ∧ calls = [.bindListen h (s.get16 (snPort n)) 1])) :
    ∃ u, s.listen n = u.listenFails n ∧ s.onlySocket u n (fun _ => False) ∧ u.sock n = s.sock n ∧ s.drawn u k
      ∧ u.envLog = calls ++ s.envLog ∧ u.answerAt 0 = s.answerAt k := by
  rcases hk with ⟨hh, rfl, rfl⟩ | ⟨h, hh, hok, rfl, rfl⟩
  · exact ⟨s, by simp [State.listen, State.listenFails, hi, hh], .refl s n _, rfl, drawn_refl s, rfl, rfl⟩
  · exact ⟨(s.ask (.bindListen h (s.get16 (snPort n)) 1)).2,
      by simp [State.listen, State.listenFails, hi, hh, hok], (State.onlySocket.refl s n _).ask _, ask_sock s _ n,
      (drawn_refl s).ask _, ask_envLog s _, ask_answerAt s _ 0⟩

/-- Settles O27: the bind, or the state that the failed bind leaves and then the draw. -/
theorem listenInInit : Obligations.ListenInInit := by
  intro n s hi
  refine ⟨fun h hh hok => ?_, fun k calls hk => ?_⟩
  · exact ⟨_, congrArg Host.Outcome.next (listen_of_bound hi hh hok), setStatus_status _ n _, by simp,
      ((State.onlySocket.refl s n _).ask _).setStatus _, ((drawn_refl s).ask _).setStatus n _, by simp⟩
  · obtain ⟨u, hl, hframe, hsock, hdrawn, hlog, hanswer⟩ := listen_of_failed hi hk
    have hcloses : u.closes n = s.closes n := by rw [State.closes, hsock]; rfl
    rw [← hanswer]
    refine ⟨fun hkeep => ⟨u.nextAnswer.2, ?_, hframe.nextAnswer.keepsImage, ?_, hframe.nextAnswer,
      hdrawn.nextAnswer, ?_⟩, fun hclose => ⟨(u.nextAnswer.2.release n).setStatus n srClosed, ?_,
      setStatus_status _ n _, ?_, (hframe.weaken.nextAnswer.release).setStatus _,
      (hdrawn.nextAnswer.release n).setStatus n _, ?_⟩⟩
    · rw [exec, execCmdListen, hl, State.listenFails, hkeep]; rfl
    · rw [nextAnswer_sock, hsock]
    · rw [nextAnswer_envLog, hlog]
    · rw [exec, execCmdListen, hl, State.listenFails, hclose]; rfl
    · rw [setStatus_sock, sock_release, if_pos rfl, nextAnswer_sock, hsock]
    · rw [setStatus_envLog, release_envLog, nextAnswer_closes, nextAnswer_envLog, hlog, hcloses, List.append_assoc]

/-! ## CONNECT (41 R204) -/

/-- The call of CONNECT: to the redirected Sn_DIPR and Sn_DPORT. -/
abbrev State.connectCall (s : State) (n : SockId) (h : Handle) : EnvCall :=
  .connect h (redirect (s.getIp (snDipr n))) (s.get16 (snDport n))

theorem connect_of_no_handle (hi : s.status n = srInit) (hh : (s.sock n).handle = none) :
    s.connect n = (s.release n).setStatus n srClosed := by
  simp [State.connect, hi, hh]

section

variable {h : Handle} (hi : s.status n = srInit) (hh : (s.sock n).handle = some h)

include hi hh

theorem connect_of_immediate (ha : (s.answerAt 0).asConnect = .immediate) :
    s.connect n = (s.ask (s.connectCall n h)).2.setStatus n srEstablished := by
  simp [State.connect, hi, hh, ha]

theorem connect_of_inProgress (ha : (s.answerAt 0).asConnect = .inProgress) :
    s.connect n = ((s.ask (s.connectCall n h)).2.setStatus n srSynsent).setConnecting n true := by
  simp [State.connect, hi, hh, ha]

theorem connect_of_fail (ha : (s.answerAt 0).asConnect = .fail) :
    s.connect n = ((s.ask (s.connectCall n h)).2.release n).setStatus n srClosed := by
  simp [State.connect, hi, hh, ha]

end

/-- Settles O28: with no handle the release; with one the call, and what each of its answers leaves. -/
theorem connectInInit : Obligations.ConnectInInit := by
  intro n s hi
  cases hh : (s.sock n).handle with
  | none =>
    refine ⟨_, congrArg Host.Outcome.next (connect_of_no_handle hi hh),
      (State.onlySocket.refl s n _).release.setStatus _,
      fun _ => ⟨setStatus_status _ n _, ?_, ((drawn_refl s).release n).setStatus n _, ?_⟩, fun h e => by cases e⟩
    · rw [setStatus_sock, sock_release, if_pos rfl]
    · simp [State.closes, hh]
  | some h =>
    have hframe : s.onlySocket (s.ask (s.connectCall n h)).2 n (· = snSr n) := (State.onlySocket.refl s n _).ask _
    have hdrawn : s.drawn (s.ask (s.connectCall n h)).2 1 := (drawn_refl s).ask _
    cases ha : (s.answerAt 0).asConnect with
    | immediate =>
      refine ⟨_, congrArg Host.Outcome.next (connect_of_immediate hi hh ha), hframe.setStatus _,
        fun e => (by cases e), fun h' e => ?_⟩
      cases e
      exact ⟨hdrawn.setStatus n _, .inl ⟨rfl, setStatus_status _ n _, by simp, by simp⟩⟩
    | inProgress =>
      refine ⟨_, congrArg Host.Outcome.next (connect_of_inProgress hi hh ha), (hframe.setStatus _).setSock _,
        fun e => (by cases e), fun h' e => ?_⟩
      cases e
      exact ⟨(hdrawn.setStatus n _).setSock n _, .inr (.inl ⟨rfl, setStatus_status _ n _,
        by simp [sock_setConnecting], by simp⟩)⟩
    | fail =>
      refine ⟨_, congrArg Host.Outcome.next (connect_of_fail hi hh ha), hframe.release.setStatus _,
        fun e => (by cases e), fun h' e => ?_⟩
      cases e
      exact ⟨(hdrawn.release n).setStatus n _, .inr (.inr ⟨rfl, setStatus_status _ n _, by simp [sock_release],
        by simp⟩)⟩

/-! ## The redirect rule (41 R214) -/

/-- Two strings of bits one after the other, over the natural numbers. -/
theorem toNat_append_eq {l m : Nat} (x : BitVec l) (y : BitVec m) : (x ++ y).toNat = x.toNat * 2 ^ m + y.toNat := by
  rw [BitVec.toNat_append, ← Nat.shiftLeft_add_eq_or_of_lt y.isLt, Nat.shiftLeft_eq]

/-- The first three octets of an address. -/
theorem extractLsb'_ipOf (a b c d : Byte) :
    ((ipOf a b c d).extractLsb' 8 24).toNat = a.toNat * 0x10000 + b.toNat * 0x100 + c.toNat := by
  have ha := a.isLt
  have hb := b.isLt
  have hc := c.isLt
  have hd := d.isLt
  rw [BitVec.extractLsb'_toNat, ipOf, toNat_append_eq, toNat_append_eq, toNat_append_eq, Nat.shiftRight_eq_div_pow]
  omega

/-- The destinations of the rule, by their octets. -/
theorem redirected_iff (a b c d : Byte) :
    ((ipOf a b c d).extractLsb' 8 24 = 0xC0A840 ∨ (ipOf a b c d).extractLsb' 8 24 = 0xC0A841)
      ↔ a = 192 ∧ b = 168 ∧ (c = 64 ∨ c = 65) := by
  have hb := b.isLt
  have hc := c.isLt
  simp only [BitVec.toNat_eq, extractLsb'_ipOf, BitVec.toNat_ofNat, BitVec.ofNat_eq_ofNat]
  norm_num only
  omega

/-- Settles O29: the rule by octets; and 127.0.0.1 is no destination that it changes. -/
theorem redirectRule : Obligations.RedirectRule := by
  refine ⟨fun a b c d => ?_, fun ip => ?_⟩
  · unfold redirect
    simp only [redirected_iff]
    rfl
  · by_cases h : ip.extractLsb' 8 24 = 0xC0A840 ∨ ip.extractLsb' 8 24 = 0xC0A841
    · have hlocal : redirect ip = 0x7F000001 := if_pos h
      rw [hlocal]
      rfl
    · have hfix : redirect ip = ip := if_neg h
      rw [hfix, hfix]

/-! ## DISCON and CLOSE (41 R206, R207) -/

/-- Settles O30: the two arms are one operation, the release and three stores. -/
theorem closeSocket : Obligations.CloseSocket := by
  intro n s
  refine ⟨s.closeSocket n, rfl, rfl, setStatus_status _ n _, ?sock,
    (((State.onlySocket.refl s n _).release.setSock _).setSock _).setStatus _,
    ((((drawn_refl s).release n).setSock n _).setSock n _).setStatus n _, release_envLog s n⟩
  case sock => simp [State.closeSocket, sock_setMacraw, sock_setFill, sock_release]

end Sys2Proof.Machine
end

section
/-! SEND on a stream (41 R208) and RECV (41 R210). -/

namespace Sys2Proof.Machine

variable {s : State} {n : SockId}

/-! ## SEND on a stream (41 R208) -/

theorem txLen_eq (s : State) (n : SockId) :
    s.txLen n = ((s.get16 (snTxWr n)).toNat + 65536 - (s.get16 (snTxRd n)).toNat) % 2048 := ringDiff_eq _ _

@[simp] theorem length_txData (s : State) (n : SockId) : (s.txData n).length = s.txLen n := by
  simp [State.txData]

/-- The bytes of the ring from Sn_TX_RD on, modulo 2048. -/
theorem getElem?_txData {i : Nat} (h : i < s.txLen n) : (s.txData n)[i]? = some (s.txByte n i) := by
  simp [State.txData, h]

/-- The host takes no more than it is offered. -/
theorem asCount_le (a : HostAnswer) (len : Nat) : a.asCount len ≤ len := by
  unfold HostAnswer.asCount
  split
  · exact Nat.min_le_right _ len
  · exact Nat.zero_le len

/-- Where there is nothing to send or no handle to send on, SEND makes no call and stores the pointer as it was. -/
theorem sendTcp_of_idle (hi : s.status n = srEstablished) (h : (s.sock n).handle = none ∨ s.txLen n = 0) :
    s.sendTcp n = s.put16 (snTxRd n) (s.get16 (snTxRd n) + BitVec.ofNat 16 0) := by
  unfold State.sendTcp
  rw [if_neg (not_not.mpr hi)]
  cases hh : (s.sock n).handle with
  | none => rfl
  | some h' => simp [h.resolve_left (by simp [hh])]

/-- Otherwise the host is offered the bytes, and the pointer advances by the count it takes. -/
theorem sendTcp_of_handle {h : Handle} (hi : s.status n = srEstablished) (hh : (s.sock n).handle = some h)
    (hl : s.txLen n ≠ 0) : s.sendTcp n = (s.ask (.send h (s.txData n))).2.put16 (snTxRd n)
      (s.get16 (snTxRd n) + BitVec.ofNat 16 ((s.answerAt 0).asCount (s.txLen n))) := by
  simp [State.sendTcp, hi, hh, hl]

/-- Settles O31: nothing taken and no call, or the count that the host answers. -/
theorem sendTcp : Obligations.SendTcp := by
  intro n s hi
  refine ⟨txLen_eq s n, length_txData s n, fun i => getElem?_txData, ?_⟩
  by_cases hidle : (s.sock n).handle = none ∨ s.txLen n = 0
  · refine ⟨_, 0, congrArg Host.Outcome.next (sendTcp_of_idle hi hidle), Nat.zero_le _, get16_put16_same s _ _,
      put16_sock s _ _ n, (State.onlySocket.refl s n _).put16 _, fun _ => ⟨rfl, (drawn_refl s).put16 _ _, rfl⟩,
      fun h hh hl => ?_⟩
    rcases hidle with hnone | hzero
    · rw [hnone] at hh; cases hh
    · exact absurd hzero hl
  · obtain ⟨hne, hl⟩ := not_or.mp hidle
    obtain ⟨h, hh⟩ := Option.ne_none_iff_exists'.mp hne
    refine ⟨_, _, congrArg Host.Outcome.next (sendTcp_of_handle hi hh hl), asCount_le _ _, get16_put16_same _ _ _,
      by simp, ((State.onlySocket.refl s n _).ask _).put16 _, fun e => absurd e hidle, fun h' hh' _ => ?_⟩
    obtain rfl : h = h' := Option.some.inj (hh.symm.trans hh')
    exact ⟨rfl, ((drawn_refl s).ask _).put16 _ _, ask_envLog s _⟩

/-! ## RECV (41 R210) -/

/-- The head after RECV: in the ring, or linear in MACRAW mode. -/
def State.recvHead (s : State) (n : SockId) : Nat :=
  if (s.sock n).macraw then (s.sock n).rxHead + s.recvDelta n else ((s.sock n).rxHead + s.recvDelta n) % 2048

/-- RECV that empties the buffer. -/
theorem exec_cmdRecv_of_emptied (hr : s.recvReady n) (he : s.recvHead n = (s.sock n).rxTail) :
    exec (.cmdRecv n) s = .next ((s.setFill n 0 0).put16 (snRxRd n) (BitVec.ofNat 16 (rxBase n))) := by
  obtain ⟨fill, hfill, hle⟩ := hr
  unfold State.recvHead at he
  refine outcome_eq_next_iff.mpr ?_
  simp only [State.recv, hfill, if_neg (Nat.not_lt.mpr hle), if_pos he]

/-- RECV that leaves staged data. -/
theorem exec_cmdRecv_of_left (hr : s.recvReady n) (hne : s.recvHead n ≠ (s.sock n).rxTail) :
    exec (.cmdRecv n) s = .next (s.setFill n (s.recvHead n) (s.sock n).rxTail) := by
  obtain ⟨fill, hfill, hle⟩ := hr
  unfold State.recvHead at hne ⊢
  refine outcome_eq_next_iff.mpr ?_
  simp only [State.recv, hfill, if_neg (Nat.not_lt.mpr hle), if_neg hne]

theorem exec_cmdRecv_refused_iff {x : Refusal} : exec (.cmdRecv n) s = .refused x ↔ s.recv n = .error x :=
  outcome_eq_refused_iff

/-- Settles O33: the two outcomes under the precondition, and the two refusals. -/
theorem recvAdvances : Obligations.RecvAdvances := by
  intro n s
  refine ⟨fun hr => ?_, fun fill hfill hlt => ?_, fun hm hlt => ?_⟩
  · by_cases he : s.recvHead n = (s.sock n).rxTail
    · exact ⟨_, exec_cmdRecv_of_emptied hr he, ((drawn_refl s).setSock n _).put16 _ _, rfl,
        fun _ => ⟨by simp [sock_setFill], get16_put16_same _ _ _, ((State.onlySocket.refl s n _).setSock _).put16 _⟩,
        fun hne => absurd he hne⟩
    · have hframe := (State.onlySocket.refl s n (fun _ => False)).setSock { s.sock n with rxHead := s.recvHead n }
      exact ⟨_, exec_cmdRecv_of_left hr he, (drawn_refl s).setSock n _, rfl, fun e => absurd e he,
        fun _ => ⟨by rw [sock_setFill, if_pos rfl]; rfl, hframe.keepsImage, hframe⟩⟩
  · exact exec_cmdRecv_refused_iff.mpr ((recv_error_iff s n _).mpr (.inr ⟨fill, hfill, hlt, rfl⟩))
  · exact exec_cmdRecv_refused_iff.mpr ((recv_error_iff s n _).mpr (.inl ⟨⟨hm, hlt⟩, rfl⟩))

/-- The delta in the ring (D16). -/
theorem recvDelta_of_not_macraw (hm : (s.sock n).macraw = false) : (s.recvDelta n : Int) =
    ((s.get16 (snRxRd n)).toNat - (rxBase n : Int) - ((s.sock n).rxHead : Int)) % 2048 := by
  simp only [State.recvDelta, hm, Bool.false_eq_true, if_false]
  omega

/-- The delta in MACRAW mode (D16). -/
theorem recvDelta_of_macraw (hm : (s.sock n).macraw = true) : (s.recvDelta n : Int) =
    ((s.get16 (snRxRd n)).toNat - (rxBase n : Int) - ((s.sock n).rxHead : Int)) % 65536 := by
  simp only [State.recvDelta, hm, if_true]
  omega

/-- A RECV of the whole fill level brings the head to the tail, where the tail is a position of the ring. -/
theorem recvHead_eq_tail (ht : (s.sock n).macraw = true ∨ (s.sock n).rxTail < 2048)
    (hf : (s.sock n).rsr = some (s.recvDelta n)) : s.recvHead n = (s.sock n).rxTail := by
  unfold State.recvHead
  cases hm : (s.sock n).macraw with
  | true =>
    have := rsr_of_macraw hf hm
    rw [if_pos rfl]
    omega
  | false =>
    have hlt : (s.sock n).rxTail < 2048 := ht.resolve_left (by simp [hm])
    have := rsr_of_not_macraw hf hm
    rw [if_neg Bool.false_ne_true]
    omega

/-- An empty buffer has nothing received (10 R55). -/
theorem rsr_of_empty {k : Sock} (h : k.rxHead = 0) (t : k.rxTail = 0) : k.rsr = some 0 := by
  unfold Sock.rsr
  rw [h, t]
  split <;> rfl

/-- Settles O34: the delta by mode; and a RECV of the whole fill level empties the buffer. -/
theorem recvEmpties : Obligations.RecvEmpties := by
  intro n s
  refine ⟨recvDelta_of_not_macraw, recvDelta_of_macraw, fun ht hf => ?_⟩
  have hsock : ((s.setFill n 0 0).put16 (snRxRd n) (BitVec.ofNat 16 (rxBase n))).sock n =
      { s.sock n with rxHead := 0, rxTail := 0 } := by simp [sock_setFill]
  refine ⟨_, exec_cmdRecv_of_emptied ⟨_, hf, le_rfl⟩ (recvHead_eq_tail ht hf), ?_, ?_, ?_, get16_put16_same _ _ _⟩
  all_goals rw [hsock]
  exact rsr_of_empty rfl rfl

end Sys2Proof.Machine
end

section
/-! The dispatcher's table (41 R200), and what a command does where its precondition is not met (41 R213). -/

namespace Sys2Proof.Machine

variable {s : State} {n : SockId}

/-! ## What a command byte decodes to under the conditions of a state -/

/-- OPEN, by the protocol code and the socket's number. -/
theorem decodeCommand_open (s : State) (n : SockId) : decodeCommand (s.cond n) n 0x01 =
    if s.peek (sockBase n) &&& s.params.mrMask = 0x01 then .cmdOpenTcp n
    else if s.peek (sockBase n) &&& s.params.mrMask = s.params.mrUdp then .cmdOpenUdp n
    else if s.peek (sockBase n) &&& s.params.mrMask = s.params.mrMacraw ∧ n = 0 then .cmdOpenMacraw
    else .cmdOpenOther n := by
  have hk : (s.cond n).openKind = openKindOf s.params n (s.peek (sockBase n)) := rfl
  unfold decodeCommand
  rw [if_pos rfl, hk]
  unfold openKindOf
  split_ifs <;> rfl

/-- SEND, by the status. -/
theorem decodeCommand_send (s : State) (n : SockId) :
    decodeCommand (s.cond n) n 0x20 = if s.status n = srMacraw then .cmdSendMacraw n else .cmdSendTcp n := by
  have hm : (s.cond n).statusMacraw = true ↔ s.status n = srMacraw := beq_iff_eq
  rw [← if_congr hm rfl rfl]
  rfl

/-! ## Preconditions -/

theorem exec_cmdListen_of_not_init (h : s.status n ≠ srInit) : exec (.cmdListen n) s = .next s :=
  congrArg Host.Outcome.next (if_pos h)

theorem exec_cmdConnect_of_not_init (h : s.status n ≠ srInit) : exec (.cmdConnect n) s = .next s :=
  congrArg Host.Outcome.next (if_pos h)

theorem exec_cmdSendTcp_of_not_established (h : s.status n ≠ srEstablished) : exec (.cmdSendTcp n) s = .next s :=
  congrArg Host.Outcome.next (if_pos h)

theorem exec_cmdSendMacraw_of_not_macraw (h : s.status n ≠ srMacraw) : exec (.cmdSendMacraw n) s = .next s :=
  congrArg Host.Outcome.next (if_pos h)

/-- Settles O25: the decoder byte by byte, and each command without its precondition. -/
theorem dispatcherTable : Obligations.DispatcherTable := by
  intro n c s
  refine ⟨?opens, ?listen, ?connect, ?discon, ?close, ?send, ?recv, ?unlisted, rfl, rfl,
    fun h => ⟨exec_cmdListen_of_not_init h, exec_cmdConnect_of_not_init h⟩, exec_cmdSendTcp_of_not_established,
    exec_cmdSendMacraw_of_not_macraw⟩
  case opens => rintro rfl; exact decodeCommand_open s n
  case listen =>
    rintro rfl
    split
    · rfl
    · next h => exact exec_cmdListen_of_not_init h
  case connect =>
    rintro rfl
    split
    · rfl
    · next h => exact exec_cmdConnect_of_not_init h
  case discon | close | recv => rintro rfl; rfl
  case send =>
    rintro rfl
    rw [decodeCommand_send]
    split
    · next h => exact if_pos h
    · next h =>
      have hm : s.status n ≠ srMacraw := h
      rw [if_neg hm]
      split
      · rfl
      · next he => exact exec_cmdSendTcp_of_not_established he
  case unlisted =>
    intro h
    exact decodeCommand_unlisted n (by simpa [WellFormed.listedCommand, and_assoc] using h)

end Sys2Proof.Machine
end

section
/-! The calls that the virtual network layer records stay recorded (44 R312 to R345). -/

namespace Sys2Proof.Machine

/-- No call that is recorded in `s` is missing in `t`. -/
def State.callsKept (s t : State) : Prop := ∀ e ∈ s.envLog, e ∈ t.envLog

variable {s t : State} {r : Resp}

theorem State.callsKept.refl (s : State) : s.callsKept s := fun _ => id

theorem State.callsKept.logCall (h : s.callsKept t) (c : EnvCall) : s.callsKept (t.logCall c) :=
  fun e he => List.mem_cons_of_mem c (h e he)

theorem State.callsKept.ask (h : s.callsKept t) (c : EnvCall) : s.callsKept (t.ask c).2 := by
  unfold State.callsKept
  rw [ask_envLog]
  exact h.logCall c

theorem State.callsKept.hostClose (h : s.callsKept t) (k : Handle) : s.callsKept (t.hostClose k) := by
  unfold State.hostClose
  split
  · exact h.logCall _
  · exact h

theorem State.callsKept.dropFlow (h : s.callsKept t) : s.callsKept t.dropFlow := by
  unfold State.dropFlow
  dsimp only
  split
  · exact h.hostClose _
  · exact h

/-- The lease is written to the image alone. -/
theorem State.callsKept.storeLease (h : s.callsKept t) (g m i : Ip) : s.callsKept (t.storeLease g m i) := by
  unfold State.callsKept
  rw [storeLease_envLog]
  exact h

/-! ## The work of the TCP responder -/

variable (c : VNetChoices)

theorem State.callsKept.closeHandle (h : s.callsKept r.s) : s.callsKept r.closeHandle.s := by
  unfold Resp.closeHandle
  split
  · exact h.hostClose _
  · exact h

theorem State.callsKept.finAck (h : s.callsKept r.s) : s.callsKept (r.finAck c).s :=
  State.callsKept.closeHandle (r := Resp.withFlow (r.emit c 0x11 [] 1) _) h

theorem State.callsKept.push (h : s.callsKept r.s) (l : List (List Byte)) : s.callsKept (r.push c l).s := by
  induction l generalizing r with
  | nil => exact h
  | cons p ps ih => exact ih (r := r.emit c 0x18 p p.length) h

theorem State.callsKept.forward (h : s.callsKept r.s) (p : List Byte) : s.callsKept (r.forward p).s := by
  unfold Resp.forward
  split
  · exact h.logCall _
  · exact h

theorem State.callsKept.wait (h : s.callsKept r.s) : s.callsKept (r.wait c).s := by
  unfold Resp.wait
  split
  · exact h
  · next k _ =>
    have hpush := State.callsKept.push (r := { r with s := (r.s.ask (.vtcpWait k)).2 }) c (h.ask (.vtcpWait k))
    dsimp only
    split
    · exact (hpush _).finAck c
    · exact hpush _

theorem State.callsKept.data (h : s.callsKept r.s) (p : List Byte) : s.callsKept (r.data c p).s :=
  State.callsKept.wait (r := ((r.forward p).advance p.length).emit c 0x10 [] 0) c (h.forward p)

theorem State.callsKept.fin (h : s.callsKept r.s) : s.callsKept (r.fin c).s := by
  unfold Resp.fin
  dsimp only
  refine State.callsKept.closeHandle ?_
  split <;> exact h

/-! ## The responders -/

variable (s)

theorem tcpSyn_callsKept (g : Segment) : s.callsKept (tcpSyn c g s).2 := by
  have h := (State.callsKept.refl s).dropFlow.ask (.vtcpConnect g.dstPort)
  unfold tcpSyn
  dsimp only
  split <;> exact h

theorem tcpOnFlow_callsKept (g : Segment) (v : VTcp) : s.callsKept (tcpOnFlow c g v s).2 := by
  have hstart : s.callsKept ({ out := [], flow := ackFlow v g, s := s } : Resp).s := .refl s
  unfold tcpOnFlow
  dsimp only
  split
  · exact hstart
  · split <;> split
    · exact (hstart.data c _).fin c
    · exact hstart.fin c
    · exact hstart.data c _
    · exact hstart

theorem tcpRespond_callsKept (f : Frame) : s.callsKept (tcpRespond c f s).2 := by
  unfold tcpRespond
  split
  · exact .refl s
  · split_ifs
    · exact .refl s
    · exact .refl s
    · exact tcpSyn_callsKept s c _
    · split
      · exact .refl s
      · split
        · exact tcpOnFlow_callsKept s c _ _
        · exact .refl s

theorem dhcpDiscover_callsKept (x : BitVec 32) (m : Mac) : s.callsKept (dhcpDiscover c x m s).2 := by
  unfold dhcpDiscover
  split <;> exact .refl s

theorem dhcpRequest_callsKept (x : BitVec 32) (m : Mac) : s.callsKept (dhcpRequest c x m s).2 := by
  have hcomplete : s.callsKept { s with venv := { s.venv with dhcpState := .complete } } := .refl s
  have hlease := hcomplete.storeLease vnGwIp vnMask vnClientIp
  unfold dhcpRequest
  split
  case h_1 | h_2 =>
    split
    · exact hlease
    · exact .refl s
  all_goals exact .refl s

theorem dhcpRespond_callsKept (f : Frame) : s.callsKept (dhcpRespond c f s).2 := by
  unfold dhcpRespond
  split
  · exact .refl s
  · split_ifs
    · exact dhcpDiscover_callsKept s c _ _
    · exact dhcpRequest_callsKept s c _ _
    · exact .refl s

theorem respond_callsKept (f : Frame) : s.callsKept (respond c f s).2 := by
  unfold respond
  split_ifs
  · exact .refl s
  · exact .refl s
  · exact dhcpRespond_callsKept s c f
  · exact tcpRespond_callsKept s c f
  · exact .refl s

/-- A frame handed to the virtual layer is recorded, whatever its answer (42 R264). -/
theorem vnetFrame_mem_envLog (f : Frame) : .vnetFrame f ∈ (s.vnetFrame f).2.envLog := by
  have hlog : .vnetFrame f ∈ (s.logCall (.vnetFrame f)).nextVNet.2.envLog := by simp
  unfold State.vnetFrame
  dsimp only
  split
  · exact respond_callsKept _ _ _ _ hlog
  · split <;> simp

end Sys2Proof.Machine
end

section
/-! SEND in MACRAW mode (41 R209). -/

namespace Sys2Proof.Machine

variable {s t : State} {n : SockId}

/-- A register outside the lease reads as before the virtual layer was called (42 R264). -/
theorem VnetKeeps.get16 (k : VnetKeeps s t) {a : Nat} (h : ¬ leaseByte a) (h1 : ¬ leaseByte (a + 1)) :
    t.get16 a = s.get16 a := by
  rw [State.get16, k.image a h, k.image (a + 1) h1]
  rfl

theorem VnetKeeps.sock (k : VnetKeeps s t) (m : SockId) : t.sock m = s.sock m := by
  rw [State.sock, k.socks]
  rfl

/-- A socket's page holds no byte of the lease. -/
theorem not_leaseByte_page (n : SockId) (o : Nat) : ¬ leaseByte (sockBase n + o) := by
  unfold leaseByte sockBase
  omega

/-- A length of 0 or above 1600: the ring is drained and nothing else done (D19). -/
theorem sendMacraw_of_dropped (hi : s.status n = srMacraw) (hl : s.txLen n = 0 ∨ 1600 < s.txLen n) :
    s.sendMacraw n = s.put16 (snTxRd n) (s.get16 (snTxWr n)) := by
  unfold State.sendMacraw
  rw [if_neg (not_not.mpr hi)]
  exact if_pos hl

/-- A length of 1..1600: the frame is handed over and the replies staged. -/
theorem sendMacraw_of_frame (hi : s.status n = srMacraw) (hl : ¬ (s.txLen n = 0 ∨ 1600 < s.txLen n)) :
    s.sendMacraw n = ((s.put16 (snTxRd n) (s.get16 (snTxWr n))).vnetFrame (s.txData n)).2.rxInjectAll n
      ((s.put16 (snTxRd n) (s.get16 (snTxWr n))).vnetFrame (s.txData n)).1 := by
  unfold State.sendMacraw
  rw [if_neg (not_not.mpr hi)]
  exact if_neg hl

theorem put16_txRd_status (s : State) (n : SockId) (v : Word16) : (s.put16 (snTxRd n) v).status n = s.status n :=
  put16_status s n v (by unfold snSr snTxRd; omega) (by unfold snSr snTxRd; omega)

/-- Settles O32: the ring is drained before the length is looked at, and what the virtual layer then does
reaches neither the pointer nor the status. -/
theorem sendMacraw : Obligations.SendMacraw := by
  intro n s hi
  have hkeeps := keeps_sendMacraw s n
  have hputFrame := (State.onlySocket.refl s n (regBytes (snTxRd n))).put16 (s.get16 (snTxWr n))
  refine ⟨s.sendMacraw n, rfl, ?_⟩
  by_cases hl : s.txLen n = 0 ∨ 1600 < s.txLen n
  · rw [sendMacraw_of_dropped hi hl]
    refine ⟨get16_put16_same s _ _, (put16_txRd_status s n _).trans hi,
      fun a ha => hputFrame.keepsOutside a fun e => ha (.inl e),
      fun m _ => put16_sock s _ _ m, put16_aside s _ _,
      fun _ => ⟨hputFrame, put16_sock s _ _ n, (drawn_refl s).put16 _ _, rfl⟩, fun h1 h2 => by omega⟩
  · rw [sendMacraw_of_frame hi hl] at hkeeps ⊢
    obtain ⟨k, hframes⟩ := vnetFrame_spec (s.put16 (snTxRd n) (s.get16 (snTxWr n))) (s.txData n)
    have hcall := vnetFrame_mem_envLog (s.put16 (snTxRd n) (s.get16 (snTxWr n))) (s.txData n)
    generalize (s.put16 (snTxRd n) (s.get16 (snTxWr n))).vnetFrame (s.txData n) = r at k hframes hcall hkeeps ⊢
    refine ⟨?pointer, ?status, ?image, hkeeps.others, hkeeps.aside, fun e => absurd e hl,
      fun _ _ => ⟨r.1, r.2, rfl, hframes, (k.sock n).trans (put16_sock s _ _ n), rfl, ?log⟩⟩
    case pointer =>
      rw [rxInjectAll_get16, k.get16 (a := snTxRd n) (not_leaseByte_page n 0x22) (not_leaseByte_page n 0x23),
        get16_put16_same]
    case status =>
      calc _ = (s.put16 (snTxRd n) (s.get16 (snTxWr n))).status n :=
            (rxInjectAll_peek _ n _ _).trans (k.image _ (not_leaseByte_page n 0x03))
        _ = 0x42 := (put16_txRd_status s n _).trans hi
    case image =>
      intro a ha
      obtain ⟨hreg, hlease⟩ := not_or.mp ha
      rw [rxInjectAll_peek, k.image a hlease, hputFrame.keepsOutside a hreg]
    case log => rwa [rxInjectAll_envLog]

end Sys2Proof.Machine
end
section
/-! The socket poll (42 R240 to R246): what each of its three steps does, branch by branch, and what the poll keeps. -/

namespace Sys2Proof.Machine

variable {s t : State} {n : SockId} {h : Handle}

/-! ## The connect step (42 R241) -/

theorem pollConnect_of_no_handle (hh : (s.sock n).handle = none) : s.pollConnect n = s := by
  simp [State.pollConnect, hh]

theorem pollConnect_of_not_connecting (hc : (s.sock n).connecting = false) : s.pollConnect n = s := by
  unfold State.pollConnect
  cases (s.sock n).handle with
  | none => rfl
  | some h => exact if_pos hc

section

variable (hh : (s.sock n).handle = some h) (hc : (s.sock n).connecting = true)

include hh hc

theorem pollConnect_of_not_writable (hw : (s.answerAt 0).isTrue = false) :
    s.pollConnect n = (s.ask (.writable h)).2 := by
  simp [State.pollConnect, hh, hc, hw]

theorem pollConnect_of_connected (hw : (s.answerAt 0).isTrue = true) (hok : (s.answerAt 1).isOk = true) :
    s.pollConnect n =
      (((s.ask (.writable h)).2.ask (.soError h)).2.setConnecting n false).setStatus n srEstablished := by
  simp [State.pollConnect, hh, hc, hw, hok]

theorem pollConnect_of_failed (hw : (s.answerAt 0).isTrue = true) (hok : (s.answerAt 1).isOk = false) :
    s.pollConnect n =
      ((((s.ask (.writable h)).2.ask (.soError h)).2.setConnecting n false).release n).setStatus n srClosed := by
  simp [State.pollConnect, hh, hc, hw, hok]

end

/-! ## The receive step (42 R242) -/

/-- The most bytes that the receive step asks the host for: what is free in the ring (D17). -/
abbrev State.recvMax (s : State) (n : SockId) : Nat := 2047 - ringFill (s.sock n).rxHead (s.sock n).rxTail

/-- The host gives no more than it is asked for (42 R260). -/
theorem length_le_of_asBytes {a : HostAnswer} {m : Nat} {d : List Byte} (hd : a.asBytes m = some d) :
    d.length ≤ m := by
  unfold HostAnswer.asBytes at hd
  split at hd
  · cases hd; exact List.length_take_le m _
  · cases hd

theorem pollReceive_of_no_handle (hh : (s.sock n).handle = none) : s.pollReceive n = s := by
  simp [State.pollReceive, hh]

theorem pollReceive_of_status_ne (hs : s.status n ≠ srEstablished) : s.pollReceive n = s := by
  unfold State.pollReceive
  cases (s.sock n).handle with
  | none => rfl
  | some h => exact if_pos hs

section

variable (hh : (s.sock n).handle = some h) (hs : s.status n = srEstablished)

include hh hs

theorem pollReceive_of_idle (hi : (s.answerAt 0).isTrue = false ∨ s.recvMax n = 0) :
    s.pollReceive n = (s.ask (.readable h)).2 := by
  cases hr : (s.answerAt 0).isTrue with
  | false => simp [State.pollReceive, hh, hs, hr]
  | true =>
    have hfull : s.recvMax n = 0 := hi.resolve_left (by simp [hr])
    simp [State.pollReceive, hh, hs, hr, hfull]

section

variable (hr : (s.answerAt 0).isTrue = true) (hf : 0 < s.recvMax n)

include hr hf

theorem pollReceive_of_would_block (hd : (s.answerAt 1).asBytes (s.recvMax n) = none) :
    s.pollReceive n = ((s.ask (.readable h)).2.ask (.recv h (s.recvMax n))).2 := by
  simp [State.pollReceive, hh, hs, hr, hf.ne', hd]

theorem pollReceive_of_eof (hd : (s.answerAt 1).asBytes (s.recvMax n) = some []) :
    s.pollReceive n =
      (((s.ask (.readable h)).2.ask (.recv h (s.recvMax n))).2.release n).setStatus n srCloseWait := by
  simp [State.pollReceive, State.peerClosed, hh, hs, hr, hf.ne', hd]

theorem pollReceive_of_data {d : List Byte} (hd : (s.answerAt 1).asBytes (s.recvMax n) = some d) (hne : d ≠ []) :
    s.pollReceive n = ((s.ask (.readable h)).2.ask (.recv h (s.recvMax n))).2.stage n d := by
  obtain ⟨b, l, rfl⟩ := List.exists_cons_of_ne_nil hne
  simp [State.pollReceive, hh, hs, hr, hf.ne', hd]

end

end

/-! ## The accept step (42 R245) -/

theorem pollAccept_of_no_handle (hh : (s.sock n).handle = none) : s.pollAccept n = s := by
  simp [State.pollAccept, hh]

theorem pollAccept_of_status_ne (hs : s.status n ≠ srListen) : s.pollAccept n = s := by
  unfold State.pollAccept
  cases (s.sock n).handle with
  | none => rfl
  | some h => exact if_pos hs

section

variable (hh : (s.sock n).handle = some h) (hs : s.status n = srListen)

include hh hs

theorem pollAccept_of_not_readable (hr : (s.answerAt 0).isTrue = false) :
    s.pollAccept n = (s.ask (.readable h)).2 := by
  simp [State.pollAccept, hh, hs, hr]

theorem pollAccept_of_failed (hr : (s.answerAt 0).isTrue = true)
    (ha : (s.answerAt 1).asHandle s.liveHandles = none) :
    s.pollAccept n = ((s.ask (.readable h)).2.ask (.accept h)).2 := by
  simp [State.pollAccept, hh, hs, hr, ha]

theorem pollAccept_of_accepted {h' : Handle} (hr : (s.answerAt 0).isTrue = true)
    (ha : (s.answerAt 1).asHandle s.liveHandles = some h') :
    s.pollAccept n =
      ((((s.ask (.readable h)).2.ask (.accept h)).2.hostClose h).setHandle n (some h')).setStatus n srEstablished := by
  simp [State.pollAccept, hh, hs, hr, ha]

end

/-! ## The three steps together (42 R240) -/

@[simp] theorem ask_status (s : State) (c : EnvCall) (m : SockId) : (s.ask c).2.status m = s.status m := ask_peek s c _

@[simp] theorem setSock_status (s : State) (n : SockId) (x : Sock) (m : SockId) :
    (s.setSock n x).status m = s.status m :=
  setSock_peek s n x _

/-- Everything the receive step can do: nothing, the first call, or both calls and what the second answered. -/
theorem pollReceive_cases (s : State) (n : SockId) :
    s.pollReceive n = s ∨ ∃ h, (s.sock n).handle = some h ∧ s.status n = srEstablished
      ∧ (s.pollReceive n = (s.ask (.readable h)).2
        ∨ ∃ u, u = ((s.ask (.readable h)).2.ask (.recv h (s.recvMax n))).2
          ∧ (s.pollReceive n = u ∨ s.pollReceive n = (u.release n).setStatus n srCloseWait
            ∨ ∃ d, s.pollReceive n = u.stage n d)) := by
  cases hh : (s.sock n).handle with
  | none => exact .inl (pollReceive_of_no_handle hh)
  | some h =>
    by_cases hs : s.status n = srEstablished
    · refine .inr ⟨h, rfl, hs, ?_⟩
      by_cases hi : (s.answerAt 0).isTrue = false ∨ s.recvMax n = 0
      · exact .inl (pollReceive_of_idle hh hs hi)
      · obtain ⟨hr, hf⟩ := not_or.mp hi
        have hr := eq_true_of_ne_false hr
        have hf := Nat.pos_of_ne_zero hf
        refine .inr ⟨_, rfl, ?_⟩
        match hd : (s.answerAt 1).asBytes (s.recvMax n) with
        | none => exact .inl (pollReceive_of_would_block hh hs hr hf hd)
        | some [] => exact .inr (.inl (pollReceive_of_eof hh hs hr hf hd))
        | some (b :: l) => exact .inr (.inr ⟨_, pollReceive_of_data hh hs hr hf hd (by simp)⟩)
    · exact .inl (pollReceive_of_status_ne hs)

/-- The receive step never brings a socket to LISTEN. -/
theorem pollReceive_status_ne_listen (hs : s.status n ≠ srListen) : (s.pollReceive n).status n ≠ srListen := by
  rcases pollReceive_cases s n with e | ⟨h, -, -, e | ⟨u, rfl, e | e | ⟨d, e⟩⟩⟩ <;> rw [e]
  · exact hs
  · rwa [ask_status]
  · rwa [ask_status, ask_status]
  · rw [setStatus_status]; decide
  · rwa [State.stage, setSock_status, ask_status, ask_status]

/-- With no connect in progress and the socket ESTABLISHED, only the receive step acts. -/
theorem socketPoll_of_established (hc : (s.sock n).connecting = false) (hs : s.status n = srEstablished) :
    s.socketPoll n = s.pollReceive n := by
  rw [State.socketPoll, pollConnect_of_not_connecting hc,
    pollAccept_of_status_ne (pollReceive_status_ne_listen (by rw [hs]; decide))]

/-- With no connect in progress and the socket not ESTABLISHED, only the accept step can act. -/
theorem socketPoll_of_not_established (hc : (s.sock n).connecting = false) (hs : s.status n ≠ srEstablished) :
    s.socketPoll n = s.pollAccept n := by
  rw [State.socketPoll, pollConnect_of_not_connecting hc, pollReceive_of_status_ne hs]

/-! ## What the poll keeps (42 R266) -/

theorem State.onlySocket.hostClose {p : Nat → Prop} (hs : s.onlySocket t n p) (h : Handle) :
    s.onlySocket (t.hostClose h) n p :=
  hs.trans ⟨fun a _ => hostClose_peek t h a, fun m _ => hostClose_sock t h m, hostClose_venv t h,
    hostClose_aside t h⟩

/-- What every step of the poll keeps: the image but for the status, the other sockets, the environment state,
the head and the MACRAW flag. -/
structure PollKeeps (n : SockId) (s t : State) : Prop where
  frame : s.onlySocket t n (· = snSr n)
  rxHead : (t.sock n).rxHead = (s.sock n).rxHead
  macraw : (t.sock n).macraw = (s.sock n).macraw

namespace PollKeeps

theorem refl (n : SockId) (s : State) : PollKeeps n s s := ⟨.refl s n _, rfl, rfl⟩

theorem trans {u : State} (k : PollKeeps n s t) (k' : PollKeeps n t u) : PollKeeps n s u :=
  ⟨k.frame.trans k'.frame, k'.rxHead.trans k.rxHead, k'.macraw.trans k.macraw⟩

theorem ask (k : PollKeeps n s t) (c : EnvCall) : PollKeeps n s (t.ask c).2 :=
  ⟨k.frame.ask c, by rw [ask_sock, k.rxHead], by rw [ask_sock, k.macraw]⟩

theorem setStatus (k : PollKeeps n s t) (v : Byte) : PollKeeps n s (t.setStatus n v) :=
  ⟨k.frame.setStatus v, by rw [setStatus_sock, k.rxHead], by rw [setStatus_sock, k.macraw]⟩

/-- The socket's extension state is replaced, but for the head and the flag. -/
theorem setSock (k : PollKeeps n s t) {x : Sock} (hx : x.rxHead = (t.sock n).rxHead)
    (hm : x.macraw = (t.sock n).macraw) : PollKeeps n s (t.setSock n x) :=
  ⟨k.frame.setSock x, by rw [sock_setSock, if_pos rfl, hx, k.rxHead],
    by rw [sock_setSock, if_pos rfl, hm, k.macraw]⟩

theorem setConnecting (k : PollKeeps n s t) (b : Bool) : PollKeeps n s (t.setConnecting n b) := k.setSock rfl rfl

theorem setHandle (k : PollKeeps n s t) (h : Option Handle) : PollKeeps n s (t.setHandle n h) := k.setSock rfl rfl

theorem stage (k : PollKeeps n s t) (d : List Byte) : PollKeeps n s (t.stage n d) := k.setSock rfl rfl

theorem release (k : PollKeeps n s t) : PollKeeps n s (t.release n) :=
  ⟨k.frame.release, by rw [sock_release, if_pos rfl, k.rxHead], by rw [sock_release, if_pos rfl, k.macraw]⟩

theorem hostClose (k : PollKeeps n s t) (h : Handle) : PollKeeps n s (t.hostClose h) :=
  ⟨k.frame.hostClose h, by rw [hostClose_sock, k.rxHead], by rw [hostClose_sock, k.macraw]⟩

end PollKeeps

theorem pollKeeps_pollConnect (s : State) (n : SockId) : PollKeeps n s (s.pollConnect n) := by
  cases hh : (s.sock n).handle with
  | none => rw [pollConnect_of_no_handle hh]; exact .refl n s
  | some h =>
    cases hc : (s.sock n).connecting with
    | false => rw [pollConnect_of_not_connecting hc]; exact .refl n s
    | true =>
      have k := (PollKeeps.refl n s).ask (.writable h)
      cases hw : (s.answerAt 0).isTrue with
      | false => rw [pollConnect_of_not_writable hh hc hw]; exact k
      | true =>
        have k := (k.ask (.soError h)).setConnecting false
        cases hok : (s.answerAt 1).isOk with
        | true => rw [pollConnect_of_connected hh hc hw hok]; exact k.setStatus _
        | false => rw [pollConnect_of_failed hh hc hw hok]; exact k.release.setStatus _

theorem pollKeeps_pollReceive (s : State) (n : SockId) : PollKeeps n s (s.pollReceive n) := by
  have k := PollKeeps.refl n s
  rcases pollReceive_cases s n with e | ⟨h, -, -, e | ⟨u, rfl, e | e | ⟨d, e⟩⟩⟩ <;> rw [e]
  · exact k
  · exact k.ask _
  · exact (k.ask _).ask _
  · exact ((k.ask _).ask _).release.setStatus _
  · exact ((k.ask _).ask _).stage d

theorem pollKeeps_pollAccept (s : State) (n : SockId) : PollKeeps n s (s.pollAccept n) := by
  cases hh : (s.sock n).handle with
  | none => rw [pollAccept_of_no_handle hh]; exact .refl n s
  | some h =>
    by_cases hs : s.status n = srListen
    · have k := (PollKeeps.refl n s).ask (.readable h)
      cases hr : (s.answerAt 0).isTrue with
      | false => rw [pollAccept_of_not_readable hh hs hr]; exact k
      | true =>
        have k := k.ask (.accept h)
        cases ha : (s.answerAt 1).asHandle s.liveHandles with
        | none => rw [pollAccept_of_failed hh hs hr ha]; exact k
        | some h' =>
          rw [pollAccept_of_accepted hh hs hr ha]
          exact ((k.hostClose h).setHandle _).setStatus _
    · rw [pollAccept_of_status_ne hs]; exact .refl n s

theorem pollKeeps_socketPoll (s : State) (n : SockId) : PollKeeps n s (s.socketPoll n) :=
  ((pollKeeps_pollConnect s n).trans (pollKeeps_pollReceive _ n)).trans (pollKeeps_pollAccept _ n)

/-- Settles O35: each step keeps the frame; with no handle no step acts, and with no connect in progress the
status must be one of the two that the receive and the accept step ask for. -/
theorem pollFrame : Obligations.PollFrame := by
  intro n s
  obtain ⟨hframe, hhead, hmacraw⟩ := pollKeeps_socketPoll s n
  refine ⟨s.socketPoll n, rfl, hframe, hhead, hmacraw, ?_⟩
  rintro (hh | ⟨hc, he, hl⟩)
  · exact socketPoll_of_handle_none s n hh
  · rw [socketPoll_of_not_established hc he, pollAccept_of_status_ne hl]

end Sys2Proof.Machine
end

section
/-! The outcomes of the socket poll: a connect in progress, received bytes, a peer that has closed, an accepted connection (42 R241 to R245). -/

namespace Sys2Proof.Machine

variable {s t : State} {n : SockId} {h : Handle}

/-! ## Calls and draws -/

theorem State.drawn.hostClose {k : Nat} (hd : s.drawn t k) (h : Handle) : s.drawn (t.hostClose h) k :=
  hd.congr (hostClose_hostDraws t h) (hostClose_hostScript t h) (hostClose_vnetDraws t h) (hostClose_vnetScript t h)

/-- A step that makes one call and takes nothing from its answer leaves the call and the draw. -/
theorem asked_once (s : State) (n : SockId) (c : EnvCall) :
    s.keepsImage (s.ask c).2 ∧ (s.ask c).2.sock n = s.sock n ∧ s.onlySocket (s.ask c).2 n (fun _ => False)
      ∧ s.drawn (s.ask c).2 1 ∧ (s.ask c).2.envLog = c :: s.envLog := by
  have hframe := (State.onlySocket.refl s n (fun _ => False)).ask c
  exact ⟨hframe.keepsImage, ask_sock s c n, hframe, drawn_ask s c, ask_envLog s c⟩

/-- A step that makes two calls and takes nothing from the second's answer leaves the calls and the draws. -/
theorem asked_twice (s : State) (n : SockId) (c d : EnvCall) :
    s.keepsImage ((s.ask c).2.ask d).2 ∧ ((s.ask c).2.ask d).2.sock n = s.sock n
      ∧ s.onlySocket ((s.ask c).2.ask d).2 n (fun _ => False) ∧ s.drawn ((s.ask c).2.ask d).2 2
      ∧ ((s.ask c).2.ask d).2.envLog = d :: c :: s.envLog := by
  have hframe := ((State.onlySocket.refl s n (fun _ => False)).ask c).ask d
  exact ⟨hframe.keepsImage, by simp, hframe, (drawn_ask s c).ask d, by simp⟩

/-! ## The connect step (42 R241) -/

/-- Settles O36: the connect step's three outcomes. After the first the other two steps do not act, after the
second the connect step does not act again, after the third no step has a handle to act on. -/
theorem pollConnect : Obligations.PollConnect := by
  intro n h s hh hc
  refine ⟨fun hw he hl => ?pending, fun hw hok => ?connected, fun hw hok => ?failed⟩
  case pending =>
    have hpoll : s.socketPoll n = (s.ask (.writable h)).2 := by
      rw [State.socketPoll, pollConnect_of_not_writable hh hc hw, pollReceive_of_status_ne (by rwa [ask_status]),
        pollAccept_of_status_ne (by rwa [ask_status])]
    exact ⟨_, congrArg Host.Outcome.next hpoll, asked_once s n _⟩
  case connected =>
    have hstep := pollConnect_of_connected hh hc hw hok
    have hsock : (s.pollConnect n).sock n = { s.sock n with connecting := false } := by
      simp [hstep, sock_setConnecting]
    refine ⟨s.pollConnect n, congrArg Host.Outcome.next ?_, ?_, hsock, (pollKeeps_pollConnect s n).frame, ?_, ?_⟩
    · rw [State.socketPoll, State.socketPoll, pollConnect_of_not_connecting (s := s.pollConnect n) (by rw [hsock])]
    · rw [hstep]; exact setStatus_status _ n _
    · rw [hstep]; exact ((((drawn_refl s).ask _).ask _).setSock n _).setStatus n _
    · simp [hstep]
  case failed =>
    have hstep := pollConnect_of_failed hh hc hw hok
    have hsock : (s.pollConnect n).sock n = { s.sock n with handle := none, connecting := false } := by
      simp [hstep, sock_release, sock_setConnecting]
    have hpoll : s.socketPoll n = s.pollConnect n := by
      rw [State.socketPoll, pollReceive_of_no_handle (by rw [hsock]), pollAccept_of_no_handle (by rw [hsock])]
    refine ⟨_, congrArg Host.Outcome.next hpoll, ?_, hsock, (pollKeeps_pollConnect s n).frame, ?_, ?_⟩
    · rw [hstep]; exact setStatus_status _ n _
    · rw [hstep]; exact (((((drawn_refl s).ask _).ask _).setSock n _).release n).setStatus n _
    · simp [hstep, State.closes, sock_setConnecting]

/-! ## The receive step (42 R242, R244) -/

/-- Settles O37: in ESTABLISHED only the receive step acts; what the host gives is staged in the socket as it
was, for the two calls do not reach it. -/
theorem pollReceive : Obligations.PollReceive := by
  intro n h s hh hc hs
  have hpoll := socketPoll_of_established hc hs
  refine ⟨fun hi => ?idle, fun hr hf hd => ?blocked, fun d hr hf hd hne => ?staged⟩
  case idle =>
    exact ⟨_, congrArg Host.Outcome.next (hpoll.trans (pollReceive_of_idle hh hs hi)), asked_once s n _⟩
  case blocked =>
    exact ⟨_, congrArg Host.Outcome.next (hpoll.trans (pollReceive_of_would_block hh hs hr hf hd)),
      asked_twice s n _ _⟩
  case staged =>
    obtain ⟨-, -, hasked, hdrawn, -⟩ := asked_twice s n (.readable h) (.recv h (s.recvMax n))
    exact ⟨_, congrArg Host.Outcome.next (hpoll.trans (pollReceive_of_data hh hs hr hf hd hne)),
      (hasked.setSock _).keepsImage, by simp [sock_stage], length_le_of_asBytes hd, hasked.setSock _,
      hdrawn.setSock n _, by simp⟩

/-- Settles O38: a zero-byte read releases the socket, and no later step has a handle to act on. -/
theorem pollPeerClosed : Obligations.PollPeerClosed := by
  intro n h s hh hc hs hr free hf hd
  have hpoll := (socketPoll_of_established hc hs).trans (pollReceive_of_eof hh hs hr hf hd)
  exact ⟨_, congrArg Host.Outcome.next hpoll, setStatus_status _ n _, by simp [sock_release],
    (((State.onlySocket.refl s n _).ask _).ask _).release.setStatus _,
    (((drawn_ask s _).ask _).release n).setStatus n _, by simp [free]⟩

/-! ## The accept step (42 R245) -/

/-- Closing the handle that a socket owns makes the calls of a release (41 R216). -/
theorem hostClose_envLog (hh : (s.sock n).handle = some h) (t : State) :
    (t.hostClose h).envLog = s.closes n ++ t.envLog := by
  by_cases h3 : 3 ≤ h <;> simp [State.closes, State.hostClose, hh, h3]

/-- Settles O40: in LISTEN only the accept step acts, and what it accepts is a fresh handle. -/
theorem pollAccept : Obligations.PollAccept := by
  intro n h s hh hc hs
  have hpoll := socketPoll_of_not_established hc (show s.status n ≠ srEstablished by rw [hs]; decide)
  refine ⟨fun hr => ?idle, fun hr ha => ?failed, fun h' hr ha => ?accepted⟩
  case idle =>
    exact ⟨_, congrArg Host.Outcome.next (hpoll.trans (pollAccept_of_not_readable hh hs hr)), asked_once s n _⟩
  case failed =>
    exact ⟨_, congrArg Host.Outcome.next (hpoll.trans (pollAccept_of_failed hh hs hr ha)), asked_twice s n _ _⟩
  case accepted =>
    obtain ⟨h3, hfresh⟩ := HostAnswer.asHandle_fresh ha
    exact ⟨_, congrArg Host.Outcome.next (hpoll.trans (pollAccept_of_accepted hh hs hr ha)), setStatus_status _ n _,
      by simp [sock_setHandle], h3, hfresh,
      ((((State.onlySocket.refl s n _).ask _).ask _).hostClose h |>.setSock _).setStatus _,
      ((((drawn_ask s _).ask _).hostClose h).setSock n _).setStatus n _, by simp [hostClose_envLog hh]⟩

end Sys2Proof.Machine
end

section
/-! Staging received bytes in the ring (42 R243), and the poll of the virtual TCP flow (42 R247, R265). -/

namespace Sys2Proof.Machine

variable {s : State}

/-! ## Staging (42 R243) -/

theorem sock_stage_same (s : State) (n : SockId) (d : List Byte) :
    (s.stage n d).sock n = { s.sock n with
      staging := stageRing (s.sock n).staging (s.sock n).rxTail d
      rxTail := ((s.sock n).rxTail + d.length) % 2048 } := by
  rw [sock_stage, if_pos rfl]

/-- A position of the ring that lies `i` behind the tail, with `i` below the length, holds byte `i`. -/
theorem read_stageRing_add (m : Memory) {t i : Nat} {l : List Byte} (hl : l.length ≤ 2048) (hi : i < l.length) :
    (stageRing m t l).read stagingDefault ((t + i) % 2048) = l[i] := by
  have hplace : ((t + i) % 2048 + (2048 - t % 2048)) % 2048 = i := by omega
  rw [read_stageRing m t l _ hl, hplace, if_pos ⟨Nat.mod_lt _ (by decide), hi⟩, List.getD_eq_getElem]

/-- A position of the ring that is still unread is not written, where the bytes fit behind the fill. -/
theorem read_stageRing_unread (m : Memory) {a t i : Nat} {l : List Byte} (hl : l.length ≤ 2047 - ringFill a t)
    (hi : i < ringFill a t) :
    (stageRing m t l).read stagingDefault ((a + i) % 2048) = m.read stagingDefault ((a + i) % 2048) := by
  unfold ringFill at hl hi
  rw [read_stageRing m t l _ (by omega), if_neg (by omega)]

/-- The fill level grows by what is staged, as long as it fits. -/
theorem ringFill_add {a t k : Nat} (hk : k ≤ 2047 - ringFill a t) :
    ringFill a ((t + k) % 2048) = ringFill a t + k := by
  unfold ringFill at hk ⊢
  omega

/-- Settles O39: what the ring reads as after the bytes are stored at the tail. -/
theorem stagingRing : Obligations.StagingRing := by
  intro n data s k fill _ _ hlen k'
  have hk' : k' = _ := sock_stage_same s n data
  rw [hk']
  refine ⟨fun i hi => ?_, fun i => read_stageRing_unread _ hlen, fun i hi => ?_,
    Nat.mod_lt _ (by decide), ringFill_add hlen, rfl⟩
  · rw [List.getElem?_eq_getElem hi, read_stageRing_add _ (by omega) hi]
  · rw [read_stageRing _ _ _ _ (by omega), if_neg (by omega)]

/-! ## The virtual TCP flow (42 R247, R265) -/

/-- With no open host handle the responders send nothing on their own (44 R345). -/
theorem tcpPoll_of_no_handle (c : VNetChoices) (hv : s.venv.handle = none) : tcpPoll c s = ([], s) := by
  unfold VEnv.handle at hv
  unfold tcpPoll
  cases hf : s.venv.vtcp with
  | none => rfl
  | some v =>
    rw [hf] at hv
    simp only [hv]

/-- The responders' poll with no open host handle returns no frame, and only its call and its draw are left. -/
theorem vnetPoll_of_no_handle (hs : s.vnetScript = []) (hv : s.venv.handle = none) :
    s.vnetPoll = ([], (s.logCall .vnetPoll).nextVNet.2) := by
  have hanswer : (s.logCall .vnetPoll).nextVNet.1 = .responder (Config.vnetChoices s.vnetDraws) := by
    simp [State.nextVNet, State.logCall, hs]
  unfold State.vnetPoll
  simp only [hanswer]
  exact tcpPoll_of_no_handle _ (by rwa [nextVNet_venv])

/-- Settles O41: the frames of the virtual layer, injected one after the other into the sockets as they were. -/
theorem pollVirtualTcp : Obligations.PollVirtualTcp := by
  refine ⟨fun s => ?_, fun n f fs s => ⟨rfl, rfl, fun hlong => if_pos hlong⟩⟩
  obtain ⟨k, -, hframes⟩ := vnetPoll_spec s
  have kpoll := keeps_virtualTcpPoll s
  refine ⟨s.virtualTcpPoll, s.vnetPoll.1, s.vnetPoll.2, rfl, rfl, hframes, k.socks, rfl,
    fun a => by rw [State.peek, virtualTcpPoll_mem]; rfl, kpoll.others, kpoll.aside, fun hs hv => ?_⟩
  rw [State.virtualTcpPoll, vnetPoll_of_no_handle hs hv]
  exact ⟨nextVNet_socks _, nextVNet_venv _⟩

end Sys2Proof.Machine
end

section
/-! The registers, the ROM window and the calls of the mouse card (43 R270 to R287, R290 to R293), and the writes that both cards ignore (D4, D5). -/

namespace Sys2Proof.Machine

/-- Settles O10: an ignored write is the step that leaves the state as it is. -/
theorem ignoredWrites : Obligations.IgnoredWrites :=
  fun _ _ _ _ _ => ⟨rfl, rfl, rfl, rfl, rfl, rfl⟩

/-- Settles O48: each call is one update of the motion state or of the report. -/
theorem mouseCalls : Obligations.MouseCalls := fun _ _ _ _ => ⟨rfl, rfl, rfl⟩

/-! ## The ROM window (43 R271) -/

/-- The page is the value of ORB modulo 8: its low three bits (43 R271). -/
theorem romIndex_eq (orb ploc : Byte) : romIndex orb ploc = orb.toNat % 8 * 256 + ploc.toNat := by
  have hpage : (orb &&& 0x07).toNat = orb.toNat % 8 := by
    rw [BitVec.toNat_and]
    exact Nat.and_two_pow_sub_one_eq_mod _ 3
  rw [romIndex, hpage]

/-- Settles O43: the page by arithmetic, and the word packed from the read. -/
theorem romPage : Obligations.RomPage := by
  intro p s
  refine ⟨?byte, fun c => ?word⟩
  case byte =>
    rw [← romIndex_eq]
    rfl
  case word =>
    have hword : BitVec.ofNat 24 (0xC0000 + 0x100 * p.toNat) = packAccess ⟨true, true, false, p, 0⟩ := by
      simp [packAccess, Nat.mul_comm]
    rw [hword]
    exact decode_romWord c true (fun _ => rfl)

/-! ## The registers (43 R273 to R287) -/

/-- What CRA and CRB store of a byte: bits 7 and 6 read 0, the others as written (43 R278, R281). -/
theorem extractLsb'_masked_control (v : Byte) :
    (v &&& 0x3F).extractLsb' 6 2 = 0 ∧ (v &&& 0x3F).extractLsb' 0 6 = v.extractLsb' 0 6 := by
  rw [BitVec.extractLsb'_and, BitVec.extractLsb'_and]
  exact ⟨BitVec.and_zero, BitVec.and_allOnes⟩

/-- Settles O44: a read delivers the register, a write stores the byte, masked in CRA and CRB. -/
theorem piaRegisters : Obligations.PiaRegisters := by
  intro v s
  obtain ⟨hhigh, hlow⟩ := extractLsb'_masked_control v
  exact ⟨rfl, rfl, rfl, rfl, rfl, fun _ => rfl, fun _ => rfl, rfl, rfl, rfl, rfl,
    v &&& 0x3F, hhigh, hlow, rfl, rfl⟩

/-! ## What a soft switch addresses (43 R270) -/

theorem dataSelected_eq (cr : Byte) : dataSelected cr = cr.getLsbD 2 := by
  change (cr &&& BitVec.twoPow 8 2 != 0) = _
  rw [BitVec.and_twoPow]
  cases cr.getLsbD 2 <;> rfl

@[simp] theorem cond_dataA (s : State) (n : SockId) : (s.cond n).dataA = s.pia.cra.getLsbD 2 := dataSelected_eq _

@[simp] theorem cond_dataB (s : State) (n : SockId) : (s.cond n).dataB = s.pia.crb.getLsbD 2 := dataSelected_eq _

/-- Under the default order, a read of the switch of a register is a read of that register (log 18). -/
theorem decodePiaRead_of_default {c : Cond} (hm : c.rsMap = PiaMap.default) (r : PiaSel) :
    decodePiaRead c (BitVec.ofNat 8 (PiaMap.default.offsetOf r)) = c.registerRead r := by
  rw [← hm]
  exact decodePiaRead_offsetOf (by rw [hm]; decide) r

/-- Under the default order, a write of the switch of a register is a write of that register (log 18). -/
theorem decodePiaWrite_of_default {c : Cond} (hm : c.rsMap = PiaMap.default) (v : Byte) (r : PiaSel) :
    decodePiaWrite c (BitVec.ofNat 8 (PiaMap.default.offsetOf r)) v = c.registerWrite v r := by
  rw [← hm]
  exact decodePiaWrite_offsetOf (by rw [hm]; decide) r v

/-- Settles O45: the switch's register, and for a port bit 2 of its control register. -/
theorem piaSelect : Obligations.PiaSelect := by
  intro v s hm
  have hread := decodePiaRead_of_default (c := s.cond 0) hm
  have hwrite := decodePiaWrite_of_default (c := s.cond 0) hm v
  refine ⟨(hread .portA).trans ?_, (hwrite .portA).trans ?_, (hread .portB).trans ?_, (hwrite .portB).trans ?_,
    hread .ctlA, hread .ctlB⟩
  all_goals simp only [Cond.registerRead, Cond.registerWrite, cond_dataA, cond_dataB]

/-! ## The slot calls (43 R290) -/

section

variable {s : State} {k : Int}

theorem setSlot_of_outOfRange (card : Card) (hk : k < 1 ∨ 7 < k) : s.setSlot card k = .error .slotOutOfRange := by
  rcases setSlot_cases s card k with ⟨-, e⟩ | h | h | h
  · exact e
  all_goals omega

section

variable (h1 : 1 ≤ k) (h7 : k ≤ 7)

include h1 h7

theorem setSlot_of_started (card : Card) (hs : s.started = true) :
    s.setSlot card k = .error .slotAfterStart := by
  simpa [h1, h7, hs, h1.not_gt, h7.not_gt] using setSlot_cases s card k

variable (hs : s.started = false)

include hs

theorem setSlot_of_taken {card : Card} (ho : otherSlot s.params card = some k.toNat) :
    s.setSlot card k = .error .slotTaken := by
  simpa [h1, h7, hs, ho, h1.not_gt, h7.not_gt] using setSlot_cases s card k

theorem setSlot_of_free {card : Card} (ho : otherSlot s.params card ≠ some k.toNat) :
    s.setSlot card k = .ok ((s.storeSlot card k.toNat).logCall (.slot card k)) := by
  simpa [h1, h7, hs, ho, h1.not_gt, h7.not_gt] using setSlot_cases s card k

end

end

/-- Settles O49: the outcome of each call in the four cases of a slot call. -/
theorem slotCalls : Obligations.SlotCalls := by
  intro k s
  refine ⟨fun h1 h7 hs => ⟨fun ho => ?_, fun ho => ?_, fun ho => ?_, fun ho => ?_⟩, fun hk => ?_, fun h1 h7 hs => ?_⟩
  · exact congrArg slotOutcome (setSlot_of_free (card := .uthernet2) h1 h7 hs ho)
  · exact congrArg slotOutcome (setSlot_of_free (card := .mouse) h1 h7 hs ho)
  · exact congrArg slotOutcome (setSlot_of_taken (card := .uthernet2) h1 h7 hs ho)
  · exact congrArg slotOutcome (setSlot_of_taken (card := .mouse) h1 h7 hs ho)
  · exact ⟨congrArg slotOutcome (setSlot_of_outOfRange .uthernet2 hk),
      congrArg slotOutcome (setSlot_of_outOfRange .mouse hk)⟩
  · exact ⟨congrArg slotOutcome (setSlot_of_started h1 h7 .uthernet2 hs),
      congrArg slotOutcome (setSlot_of_started h1 h7 .mouse hs)⟩

end Sys2Proof.Machine
end

section
/-! The read of ORA: the quadrature byte, the unit taken from each axis, and how reads drain the motion (43 R276, D26). -/

namespace Sys2Proof.Machine

/-! ## One axis -/

/-- An axis ticks, shows its direction and gives up one unit exactly if it has motion left. -/
theorem quadAxis_eq (d : Int) (phase : Bool) :
    quadAxis d phase = (decide (d ≠ 0) && !phase, decide (0 < d), d - d.sign, phase ^^ decide (d ≠ 0)) := by
  unfold quadAxis
  rcases lt_trichotomy d 0 with hneg | rfl | hpos
  · rw [if_neg hneg.ne, if_neg hneg.not_gt, Int.sign_eq_neg_one_of_neg hneg]
    simp [hneg.ne, hneg.not_gt]
  · simp
  · rw [if_neg hpos.ne', if_pos hpos, Int.sign_eq_one_of_pos hpos]
    simp [hpos.ne', hpos]

/-- What is left of an axis after `k` reads: `k` units less, and none when it has no more than `k` (D26). -/
def leftAfter (k : Nat) (d : Int) : Int := d - d.sign * (min k d.natAbs : Nat)

theorem leftAfter_zero (d : Int) : leftAfter 0 d = d := by
  simp [leftAfter]

theorem leftAfter_succ (k : Nat) (d : Int) : leftAfter (k + 1) d = leftAfter k (d - d.sign) := by
  unfold leftAfter
  rcases lt_trichotomy d 0 with hneg | rfl | hpos
  · rw [Int.sign_eq_neg_one_of_neg hneg]
    rcases (by omega : d = -1 ∨ d + 1 < 0) with rfl | hmore
    · simp
    · rw [sub_neg_eq_add, Int.sign_eq_neg_one_of_neg hmore]
      omega
  · simp
  · rw [Int.sign_eq_one_of_pos hpos]
    rcases (by omega : d = 1 ∨ 0 < d - 1) with rfl | hmore
    · simp
    · rw [Int.sign_eq_one_of_pos hmore]
      omega

/-- An axis with no more than `k` units is drained by `k` reads. -/
theorem leftAfter_eq_zero {k : Nat} {d : Int} (h : d.natAbs ≤ k) : leftAfter k d = 0 := by
  rw [leftAfter, min_eq_right h, Int.sign_mul_natAbs, sub_self]

/-! ## The byte -/

/-- The byte of a read of ORA from its five flags (30 R152). -/
def quadByte (xTick xDir yDir yTick released : Bool) : Byte :=
  bitIf xTick 0x01 ||| bitIf xDir 0x02 ||| bitIf yDir 0x04 ||| bitIf yTick 0x08 ||| bitIf released 0x80

/-- Each flag stands in its bit, and bits 6 to 4 are 0 (30 R152). -/
theorem quadByte_bits (xTick xDir yDir yTick released : Bool) :
    let b := quadByte xTick xDir yDir yTick released
    b.getLsbD 0 = xTick ∧ b.getLsbD 1 = xDir ∧ b.getLsbD 2 = yDir ∧ b.getLsbD 3 = yTick
      ∧ b.extractLsb' 4 3 = 0 ∧ b.getLsbD 7 = released := by
  revert xTick xDir yDir yTick released
  decide

namespace Mouse

variable (m : Mouse)

theorem oraByte_eq : m.oraByte =
    quadByte (decide (m.dx ≠ 0) && !m.xphase) (decide (0 < m.dx)) (decide (0 < m.dy))
      (decide (m.dy ≠ 0) && !m.yphase) (!m.button) := by
  unfold oraByte
  rw [quadAxis_eq, quadAxis_eq]
  rfl

theorem oraByte_bits :
    m.oraByte.getLsbD 0 = (decide (m.dx ≠ 0) && !m.xphase) ∧ m.oraByte.getLsbD 1 = decide (0 < m.dx)
      ∧ m.oraByte.getLsbD 2 = decide (0 < m.dy) ∧ m.oraByte.getLsbD 3 = (decide (m.dy ≠ 0) && !m.yphase)
      ∧ m.oraByte.extractLsb' 4 3 = 0 ∧ m.oraByte.getLsbD 7 = !m.button := by
  rw [oraByte_eq]
  exact quadByte_bits _ _ _ _ _

/-! ## The motion after reads of ORA -/

@[simp] theorem afterOra_dx : m.afterOra.dx = m.dx - m.dx.sign := by
  simp only [afterOra, quadAxis_eq]

@[simp] theorem afterOra_dy : m.afterOra.dy = m.dy - m.dy.sign := by
  simp only [afterOra, quadAxis_eq]

@[simp] theorem afterOra_xphase : m.afterOra.xphase = (m.xphase ^^ decide (m.dx ≠ 0)) := by
  simp only [afterOra, quadAxis_eq]

@[simp] theorem afterOra_yphase : m.afterOra.yphase = (m.yphase ^^ decide (m.dy ≠ 0)) := by
  simp only [afterOra, quadAxis_eq]

/-- `k` reads take up to `k` units from each axis and leave the button. -/
theorem iterate_afterOra (k : Nat) :
    (afterOra^[k] m).dx = leftAfter k m.dx ∧ (afterOra^[k] m).dy = leftAfter k m.dy
      ∧ (afterOra^[k] m).button = m.button := by
  induction k generalizing m with
  | zero => exact ⟨(leftAfter_zero _).symm, (leftAfter_zero _).symm, rfl⟩
  | succ k ih =>
    rw [Function.iterate_succ_apply, leftAfter_succ, leftAfter_succ, ← afterOra_dx, ← afterOra_dy]
    exact ih m.afterOra

variable {m}

/-- An axis without motion shows neither tick nor direction, and a read takes nothing from it. -/
theorem oraByte_of_dx_eq_zero (h : m.dx = 0) :
    m.oraByte.getLsbD 0 = false ∧ m.oraByte.getLsbD 1 = false ∧ m.afterOra.dx = 0
      ∧ m.afterOra.xphase = m.xphase := by
  obtain ⟨htick, hdir, -⟩ := m.oraByte_bits
  rw [htick, hdir]
  simp [h]

theorem oraByte_of_dy_eq_zero (h : m.dy = 0) :
    m.oraByte.getLsbD 3 = false ∧ m.oraByte.getLsbD 2 = false ∧ m.afterOra.dy = 0
      ∧ m.afterOra.yphase = m.yphase := by
  obtain ⟨-, -, hdir, htick, -⟩ := m.oraByte_bits
  rw [htick, hdir]
  simp [h]

/-- Without motion a read of ORA is the button alone, and changes nothing. -/
theorem oraByte_of_idle (hx : m.dx = 0) (hy : m.dy = 0) :
    m.oraByte = (if m.button then 0x00 else 0x80) ∧ m.afterOra = m := by
  refine ⟨?byte, ?motion⟩
  case byte =>
    rw [oraByte_eq, hx, hy]
    cases m.button <;> simp [quadByte, bitIf]
  case motion =>
    obtain ⟨dx, dy, x, y, button, xphase, yphase⟩ := m
    subst hx hy
    rfl

end Mouse

/-! ## Reads of ORA -/

theorem exec_piaRdOra (s : State) :
    exec .piaRdOra s = .next ({ s with mouse := s.mouse.afterOra }.deliver s.mouse.oraByte) := rfl

/-- Settles O46: the byte bit by bit, and what the read leaves of each axis. -/
theorem oraRead : Obligations.OraRead := by
  intro s
  obtain ⟨hxtick, hxdir, hydir, hytick, hunused, hbutton⟩ := s.mouse.oraByte_bits
  exact ⟨s.mouse.oraByte, _, exec_piaRdOra s, rfl, hxdir, hydir, hxtick, hytick, hunused, hbutton,
    s.mouse.afterOra_dx, s.mouse.afterOra_dy, s.mouse.afterOra_xphase, s.mouse.afterOra_yphase, rfl, rfl⟩

/-! ## Runs of reads (D26) -/

section

variable {s : State} {rest : List Request}

/-- With the data register selected, a read of soft switch 0 reads ORA (30 R151, log 18). -/
theorem decode_readOra (hm : s.params.rsMap = PiaMap.default) (hd : s.pia.cra.getLsbD 2 = true) :
    decode (s.cond 0) (.bus 0x80000) = .ok .piaRdOra := by
  obtain ⟨hread, -⟩ := piaSelect 0 s hm
  have hword : Request.bus 0x80000 = busWord true false false 0 0 := by decide
  rw [hword]
  exact decode_switchRead (s.cond 0) (by decide) (hread.trans (if_pos hd))

theorem step_readOra (hm : s.params.rsMap = PiaMap.default) (hd : s.pia.cra.getLsbD 2 = true)
    (hp : s.pending = .bus 0x80000 :: rest) :
    step s = .next ({ s.take (.bus 0x80000) rest with mouse := s.mouse.afterOra }.deliver s.mouse.oraByte) := by
  rw [step_of_decode_ok hp (decode_readOra hm hd), exec_piaRdOra, take_mouse]

/-- A run of `k` reads of ORA takes their requests and reads the motion `k` times. -/
theorem run_readOra {k : Nat} (hm : s.params.rsMap = PiaMap.default) (hd : s.pia.cra.getLsbD 2 = true)
    (hp : s.pending = List.replicate k (.bus 0x80000) ++ rest) :
    ∃ t, Host.Core.run core k s = .next t ∧ t.pending = rest ∧ t.mouse = Mouse.afterOra^[k] s.mouse := by
  induction k generalizing s with
  | zero => exact ⟨s, rfl, hp, rfl⟩
  | succ k ih =>
    rw [List.replicate_succ, List.cons_append] at hp
    have hstep := step_readOra hm hd hp
    obtain ⟨t, hrun, hpending, hmouse⟩ := ih (s := { s.take _ _ with mouse := s.mouse.afterOra }.deliver _) hm hd rfl
    exact ⟨t, run_succ_iff.mpr ⟨_, hstep, hrun⟩, hpending, hmouse⟩

end

/-- Settles O47: the run is `k` reads of the motion, after which an axis of at most `k` units is at 0. -/
theorem oraDrains : Obligations.OraDrains := by
  intro k s rest hm hd hp
  obtain ⟨t, hrun, hpending, hmouse⟩ := run_readOra hm hd hp
  obtain ⟨hdx, hdy, hbutton⟩ := s.mouse.iterate_afterOra k
  rw [← hmouse] at hdx hdy hbutton
  have hx0 (h : s.mouse.dx.natAbs ≤ k) : t.mouse.dx = 0 := hdx.trans (leftAfter_eq_zero h)
  have hy0 (h : s.mouse.dy.natAbs ≤ k) : t.mouse.dy = 0 := hdy.trans (leftAfter_eq_zero h)
  refine ⟨t, t.mouse.oraByte, _, hrun, hpending, hdx, hdy, exec_piaRdOra t, rfl,
    fun h => Mouse.oraByte_of_dx_eq_zero (hx0 h), fun h => Mouse.oraByte_of_dy_eq_zero (hy0 h), fun hx hy => ?_⟩
  obtain ⟨hbyte, hidle⟩ := Mouse.oraByte_of_idle (hx0 hx) (hy0 hy)
  rw [hbyte, hidle, hbutton]
  rfl

end Sys2Proof.Machine
end

section
/-! The one's-complement sum and the checksum field (44 R313). -/

namespace Sys2Proof.Machine

/-! ## Addition with end-around carry -/

theorem onesAdd_zero {a : Nat} (ha : a ≤ 65535) : onesAdd a 0 = a := by
  unfold onesAdd
  rw [if_pos (by omega)]
  rfl

theorem zero_onesAdd {a : Nat} (ha : a ≤ 65535) : onesAdd 0 a = a := by
  unfold onesAdd
  rw [Nat.zero_add, if_pos (by omega)]

theorem onesAdd_le {a b : Nat} (ha : a ≤ 65535) (hb : b ≤ 65535) : onesAdd a b ≤ 65535 := by
  unfold onesAdd
  split <;> omega

/-- The end-around carry comes to the same wherever it is taken. -/
theorem onesAdd_assoc {a b c : Nat} (ha : a ≤ 65535) (hb : b ≤ 65535) (hc : c ≤ 65535) :
    onesAdd (onesAdd a b) c = onesAdd a (onesAdd b c) := by
  unfold onesAdd
  split_ifs <;> omega

/-- The complement of a sum, put in the place of a zero, fills it up to 0xFFFF. -/
theorem onesAdd_complement {a b : Nat} (ha : a ≤ 65535) (hb : b ≤ 65535) :
    onesAdd (onesAdd a (65535 - onesAdd a b)) b = 65535 := by
  unfold onesAdd
  split_ifs <;> omega

/-! ## The sum of a byte string -/

theorem onesSum_le {acc : Nat} (l : List Byte) (h : acc ≤ 65535) : onesSum acc l ≤ 65535 := by
  induction acc, l using onesSum.induct with
  | case1 acc => exact h
  | case2 acc b => exact onesAdd_le h (by omega)
  | case3 acc b c t ih => exact ih (onesAdd_le h (by omega))

/-- What has been summed up before is added to the sum of the rest. -/
theorem onesSum_eq_onesAdd {acc : Nat} (l : List Byte) (h : acc ≤ 65535) :
    onesSum acc l = onesAdd acc (onesSum 0 l) := by
  match l with
  | [] => exact (onesAdd_zero h).symm
  | [b] => rw [onesSum, onesSum, zero_onesAdd (by omega)]
  | b :: c :: t =>
    have hword : b.toNat * 256 + c.toNat ≤ 65535 := by omega
    have hrest : onesSum 0 t ≤ 65535 := onesSum_le t (Nat.zero_le _)
    calc onesSum (onesAdd acc (b.toNat * 256 + c.toNat)) t
        = onesAdd (onesAdd acc (b.toNat * 256 + c.toNat)) (onesSum 0 t) := onesSum_eq_onesAdd t (onesAdd_le h hword)
      _ = onesAdd acc (onesAdd (b.toNat * 256 + c.toNat) (onesSum 0 t)) := onesAdd_assoc h hword hrest
      _ = onesAdd acc (onesSum (b.toNat * 256 + c.toNat) t) := by rw [onesSum_eq_onesAdd t hword]
      _ = onesAdd acc (onesSum 0 (b :: c :: t)) := by rw [onesSum, zero_onesAdd hword]

/-- A byte string of whole words is summed before what follows it. -/
theorem onesSum_append {acc : Nat} (l m : List Byte) (h : Even l.length) :
    onesSum acc (l ++ m) = onesSum (onesSum acc l) m := by
  induction acc, l using onesSum.induct with
  | case1 acc => rfl
  | case2 acc b => simp at h
  | case3 acc b c t ih => exact ih (by simpa [Nat.even_add_one] using h)

/-- A 16-bit field adds its value. -/
theorem onesSum_be16_append (acc : Nat) (v : Word16) (l : List Byte) :
    onesSum acc (be16 v ++ l) = onesSum (onesAdd acc v.toNat) l := by
  have hv : (hiByte v).toNat * 256 + (loByte v).toNat = v.toNat := by
    simp [hiByte, loByte]
    omega
  show onesSum (onesAdd acc ((hiByte v).toNat * 256 + (loByte v).toNat)) l = _
  rw [hv]

/-- The checksum of a byte string, stored in the zero word at an even place, makes it sum to 0xFFFF. -/
theorem onesSum_with_checksum (l m : List Byte) (h : Even l.length) :
    onesSum 0 (l ++ be16 (checksum (l ++ zeros 2 ++ m)) ++ m) = 0xFFFF := by
  have hl : onesSum 0 l ≤ 65535 := onesSum_le l (Nat.zero_le _)
  have hm : onesSum 0 m ≤ 65535 := onesSum_le m (Nat.zero_le _)
  have hzero : onesSum 0 (l ++ zeros 2 ++ m) = onesAdd (onesSum 0 l) (onesSum 0 m) := by
    rw [List.append_assoc, onesSum_append l _ h]
    show onesSum (onesAdd (onesSum 0 l) 0) m = _
    rw [onesAdd_zero hl, onesSum_eq_onesAdd m hl]
  have hfield : (checksum (l ++ zeros 2 ++ m)).toNat = 65535 - onesAdd (onesSum 0 l) (onesSum 0 m) := by
    rw [checksum, hzero, BitVec.toNat_ofNat]
    omega
  rw [List.append_assoc, onesSum_append l _ h, onesSum_be16_append, hfield,
    onesSum_eq_onesAdd m (onesAdd_le hl (Nat.sub_le _ _)), onesAdd_complement hl hm]

/-- Settles O54: each checksum field stands at an even place, for the zero word of the bytes it was taken over. -/
theorem checksumLaw : Obligations.ChecksumLaw := by
  refine ⟨fun o proto src dst total => ⟨?_, rfl⟩, fun v flags payload => ?_⟩
  · have hsum := onesSum_with_checksum (ipHead o proto total) (be32 src ++ be32 dst) ⟨5, rfl⟩
    simpa only [ipHeader, List.append_assoc] using hsum
  · have hsum := onesSum_with_checksum (tcpPseudo v payload.length ++ tcpHead v flags) (zeros 2 ++ payload)
      ⟨14, rfl⟩
    have hz : zeros 4 = zeros 2 ++ zeros 2 := rfl
    simpa only [tcpBody, hz, List.append_assoc] using hsum

end Sys2Proof.Machine
end

section
/-! The ARP responder (44 R316, R317), and how a field of a frame is read back. -/

namespace Sys2Proof.Machine

/-! ## Fields of frames -/

theorem byteAt_drop (f : Frame) (i k : Nat) : byteAt (f.drop i) k = byteAt f (i + k) := by
  simp [byteAt, List.getD_eq_getElem?_getD]

/-- A 16-bit field reads back as the value that was put there. -/
theorem word16At_of_drop {f l : Frame} {i : Nat} {v : Word16} (h : f.drop i = be16 v ++ l) : word16At f i = v := by
  have hfield : word16At f i = word16At (f.drop i) 0 := by simp [word16At, byteAt_drop]
  rw [hfield, h]
  exact word16_hiByte_loByte v

/-- A 32-bit field reads back as the value that was put there. -/
theorem word32At_of_drop {f l : Frame} {i : Nat} {v : BitVec 32} (h : f.drop i = be32 v ++ l) :
    word32At f i = v := by
  have hfield : word32At f i = word32At (f.drop i) 0 := by simp [word32At, byteAt_drop]
  rw [hfield, h]
  exact ipOf_octets v

/-- Six octets put together again: an Ethernet address in transmission order (20 R91). -/
theorem word16_append_ipOf_octets (v : Mac) :
    word16 (v.extractLsb' 40 8) (v.extractLsb' 32 8)
      ++ ipOf (v.extractLsb' 24 8) (v.extractLsb' 16 8) (v.extractLsb' 8 8) (v.extractLsb' 0 8) = v := by
  unfold word16 ipOf
  ext i hi
  simp only [BitVec.getElem_append, BitVec.getElem_extractLsb']
  split_ifs <;> simp <;> grind

/-- An Ethernet address reads back as the one that was put there. -/
theorem macAt_of_drop {f l : Frame} {i : Nat} {v : Mac} (h : f.drop i = macBytes v ++ l) : macAt f i = v := by
  have hfield : macAt f i = macAt (f.drop i) 0 := by simp [macAt, word16At, word32At, byteAt_drop, Nat.add_assoc]
  rw [hfield, h]
  exact word16_append_ipOf_octets v

/-! ## The reply -/

/-- A frame of ARP's type goes to the ARP responder, and the state stays (44 R312). -/
theorem respond_of_arp {f : Frame} (c : VNetChoices) (s : State) (hl : 14 ≤ f.length) (he : etherType f = 0x0806) :
    respond c f s = (arpRespond f, s) := by
  unfold respond
  rw [if_neg (by omega), if_pos he]

/-- The reply, field by field: Ethernet, the fixed fields, the gateway, the requester (44 R317). -/
theorem arpReply_fields (f : Frame) :
    (arpReply f).length = 42 ∧ macAt (arpReply f) 0 = macAt f 22 ∧ macAt (arpReply f) 6 = vnGwMac
      ∧ word16At (arpReply f) 12 = 0x0806 ∧ word32At (arpReply f) 14 = 0x00010800
      ∧ word16At (arpReply f) 18 = 0x0604 ∧ word16At (arpReply f) 20 = 2 ∧ macAt (arpReply f) 22 = vnGwMac
      ∧ word32At (arpReply f) 28 = vnGwIp ∧ macAt (arpReply f) 32 = macAt f 22
      ∧ word32At (arpReply f) 38 = word32At f 28 :=
  ⟨rfl, macAt_of_drop rfl, macAt_of_drop rfl, word16At_of_drop rfl, word32At_of_drop rfl, word16At_of_drop rfl,
    word16At_of_drop rfl, macAt_of_drop rfl, word32At_of_drop rfl, macAt_of_drop rfl,
    word32At_of_drop (List.append_nil _).symm⟩

/-- Settles O50: a request for the gateway is answered with the reply, and nothing else is. -/
theorem Responders.arpReply : Obligations.ArpReply := by
  intro c f s hl he
  rw [respond_of_arp c s (by omega) he, arpRespond, if_neg (by omega)]
  refine ⟨fun hop hip => ⟨_, by rw [if_pos ⟨hop, hip⟩], arpReply_fields f⟩, fun h => ?_⟩
  rw [if_neg fun hrequest => h.elim (absurd hrequest.1) (absurd hrequest.2)]

end Sys2Proof.Machine
end

section
/-! The DHCP state along every operation and every step (44 R320). -/

namespace Sys2Proof.Machine

variable {s t : State}

theorem DhcpForward.deliver (k : DhcpForward s t) (b : Byte) : DhcpForward s (t.deliver b) :=
  k.trans (DhcpSame.forward (.of_eq rfl rfl) k.responders)

theorem DhcpForward.poke (k : DhcpForward s t) (a : Nat) (v : Byte) : DhcpForward s (t.poke a v) :=
  k.trans (DhcpSame.forward (.of_eq rfl rfl) k.responders)

theorem DhcpForward.postIncrement (k : DhcpForward s t) : DhcpForward s t.postIncrement :=
  k.trans (DhcpSame.forward (.of_eq (by simp) (by simp)) k.responders)

/-- A slot call that is not refused does not touch the DHCP state. -/
theorem setSlot_dhcpSame {card : Card} {k : Int} (h : s.setSlot card k = .ok t) : DhcpSame s t := by
  rcases setSlot_cases s card k with ⟨-, e⟩ | ⟨-, -, -, e⟩ | ⟨-, -, -, -, e⟩ | ⟨-, -, -, -, e⟩
  all_goals rw [e] at h; cases h
  exact .of_eq (by simp) (by simp)

/-- Everything an operation that is no reset does to the DHCP state. -/
theorem exec_dhcpForward {i : Instr} (h : exec i s = .next t) (hr : t.resets = s.resets) (hs : s.responders) :
    DhcpForward s t := by
  cases i with
  | u2WrRom | u2WrUnassignedLow | u2WrUnassignedHigh | imgWrInvalid | cmdOpenOther | cmdUnlisted | piaWrRom
  | piaWrUnassignedLow | piaWrUnassignedHigh
  | u2RdRom | u2RdMode | u2RdArh | u2RdArl | u2RdUnassignedLow | u2RdUnassignedHigh | imgRdInvalid
  | imgRdRxwin | imgRdPlain | piaRdRom | piaRdDdra | piaRdCra | piaRdOrb | piaRdDdrb | piaRdCrb
  | piaRdUnassignedLow | piaRdUnassignedHigh
  | piaWrOra | piaWrDdra | piaWrOrb | piaWrDdrb | piaWrCra | piaWrCrb | piaRdOra
  | mouseSetPosition | mouseSetButton | mouseGetState | u2WrArh | u2WrArl | imgWrPlain =>
    cases h; exact DhcpSame.forward (.of_eq rfl rfl) hs
  | u2SetSlot | mouseSetSlot => exact (setSlot_dhcpSame (slotOutcome_eq_next_iff.mp h)).forward hs
  | u2WrMode v | imgWrMode v => cases h; exact (writeMode_dhcpSame s v hr).forward hs
  | u2RdData =>
    simp only [exec, execU2RdData] at h
    split at h <;> cases h
    exact (memRead_forward s _ _ ‹_› hs).postIncrement.deliver _
  | u2WrData v =>
    simp only [exec, execU2WrData] at h
    split at h <;> cases h
    exact (memWrite_forward s _ v _ ‹_› (by simpa using hr) hs).postIncrement
  | imgRdTxFsr n | imgRdRxRsr n | imgRdSockreg n =>
    obtain ⟨b, rfl⟩ := readOutcome_readPage h
    exact (pagePoll_forward s n hs).deliver b
  | imgWrSnCr n v =>
    obtain ⟨u, e, rfl⟩ := writeCommand_eq_ok_iff.mp (outcome_eq_next_iff.mp h)
    exact (dispatchCommand_forward s n v u e hs).poke _ _
  | cmdOpenTcp n | cmdOpenUdp n => cases h; exact (openHost_dhcpSame s n _ _).forward hs
  | cmdOpenMacraw => cases h; exact (openMacraw_dhcpSame s).forward hs
  | cmdListen n => cases h; exact (listen_dhcpSame s n).forward hs
  | cmdConnect n => cases h; exact (connect_dhcpSame s n).forward hs
  | cmdDiscon n | cmdClose n => cases h; exact (closeSocket_dhcpSame s n).forward hs
  | cmdSendMacraw n => cases h; exact sendMacraw_forward s n hs
  | cmdSendTcp n => cases h; exact (sendTcp_dhcpSame s n).forward hs
  | cmdRecv n => exact (recv_dhcpSame s n t (outcome_eq_next_iff.mp h)).forward hs
  | pollSocket n => cases h; exact (socketPoll_dhcpSame s n).forward hs
  | pollVtcp => cases h; exact virtualTcpPoll_forward s hs

/-- A step runs at most one operation, on the state without its request. -/
theorem step_dhcpForward (h : step s = .next t) (hr : t.resets = s.resets) (hs : s.responders) :
    DhcpForward s t := by
  rcases step_cases s with ⟨-, e⟩ | ⟨r, rest, -, ⟨x, -, e⟩ | ⟨i, -, e⟩⟩
  all_goals rw [e] at h
  · cases h; exact (DhcpSame.refl s).forward hs
  · cases h
  · have htake : DhcpForward s (s.take r rest) := DhcpSame.forward (.of_eq rfl rfl) hs
    exact htake.trans (exec_dhcpForward h hr htake.responders)

/-- Settles O52: what an operation or a step does to the DHCP state is a move forward. -/
theorem dhcpNeverGoesBack : Obligations.DhcpNeverGoesBack := by
  intro s t hs h hr
  have k : DhcpForward s t := h.elim (fun h => step_dhcpForward h hr hs) fun ⟨_, h⟩ => exec_dhcpForward h hr hs
  exact ⟨k.responders, k.rank, k.seen⟩

end Sys2Proof.Machine
end

section
/-! A SEND that carries a DHCP message, answered by the responders (44 R320 to R325). -/

namespace Sys2Proof.Machine

variable {c : VNetChoices} {f : Frame} {s : State}

/-! ## Which responder a frame goes to (44 R312) -/

/-- A frame with an IPv4 header that the responders go by holds that header. -/
theorem length_of_ipHeaderLen {hl : Nat} (h : ipHeaderLen c f = some hl) : 34 ≤ f.length := by
  unfold ipHeaderLen at h
  dsimp only at h
  split at h
  · cases h
  · omega

theorem length_of_dhcpMessage {m : Nat × Byte} (h : dhcpMessage c f = some m) : 34 ≤ f.length := by
  unfold dhcpMessage at h
  split at h
  · cases h
  · exact length_of_ipHeaderLen ‹_›

theorem respond_of_udp (s : State) (hl : 14 ≤ f.length) (he : etherType f = 0x0800) (hp : ipProto f = 17) :
    respond c f s = dhcpRespond c f s := by
  unfold respond
  rw [if_neg (by omega), if_neg (by rw [he]; decide), if_pos ⟨he, hp⟩]

theorem respond_of_tcp (s : State) (hl : 14 ≤ f.length) (he : etherType f = 0x0800) (hp : ipProto f = 6) :
    respond c f s = tcpRespond c f s := by
  unfold respond
  rw [if_neg (by omega), if_neg (by rw [he]; decide), if_neg (by simp [hp]), if_pos ⟨he, hp⟩]

/-! ## The DHCP responder by message type (44 R320) -/

theorem dhcpRespond_of_discover {d : Nat} (s : State) (hm : dhcpMessage c f = some (d, 1)) :
    dhcpRespond c f s = dhcpDiscover c (word32At f (d + 4)) (macAt f (d + 28)) s := by
  rw [dhcpRespond, hm]
  rfl

theorem dhcpRespond_of_request {d : Nat} (s : State) (hm : dhcpMessage c f = some (d, 3)) :
    dhcpRespond c f s = dhcpRequest c (word32At f (d + 4)) (macAt f (d + 28)) s := by
  rw [dhcpRespond, hm]
  rfl

/-- A DISCOVER records the client, and moves the state from `IDLE` to `OFFER_SENT` (44 R322). -/
theorem dhcpDiscover_venv (c : VNetChoices) (x : BitVec 32) (m : Mac)
    (h : s.venv.dhcpState = .idle ∨ s.venv.dhcpState = .offerSent ∨ s.venv.dhcpState = .complete) :
    (dhcpDiscover c x m s).2.venv = { s.venv with
      dhcpState := if s.venv.dhcpState = .idle then .offerSent else s.venv.dhcpState
      dhcpXid := x, clientMac := m } := by
  unfold dhcpDiscover
  rcases h with h | h | h <;> simp [h]

/-- A REQUEST that matches the recorded client gets the lease (44 R325). -/
theorem dhcpRequest_of_match (c : VNetChoices)
    (h : s.venv.dhcpState = .offerSent ∨ s.venv.dhcpState = .complete) :
    (dhcpRequest c s.venv.dhcpXid s.venv.clientMac s).2 =
      { s with venv := { s.venv with dhcpState := .complete } }.storeLease vnGwIp vnMask vnClientIp := by
  unfold dhcpRequest
  rcases h with h | h <;> simp [h]

/-! ## The SEND -/

/-- The virtual layer, where the script's next answer is a responder: that responder, with one draw and one
call more (44 R310). -/
theorem vnetFrame_of_responder {script : List VNetAnswer} (f : Frame) (h : s.vnetScript = .responder c :: script) :
    s.vnetFrame f = respond c f (s.logCall (.vnetFrame f)).nextVNet.2 := by
  have hanswer : (s.logCall (.vnetFrame f)).nextVNet.1 = .responder c := by simp [State.nextVNet, h]
  unfold State.vnetFrame
  dsimp only
  rw [hanswer]

/-- A SEND that a responder answers leaves the environment state and the addresses in the image as the responder
does, from a state with the environment state of before. -/
theorem sendMacraw_of_responder {n : SockId} {script : List VNetAnswer} (hi : s.status n = srMacraw)
    (hl : ¬ (s.txLen n = 0 ∨ 1600 < s.txLen n)) (hc : s.vnetScript = .responder c :: script) :
    ∃ u : State, u.venv = s.venv ∧ (s.sendMacraw n).venv = (respond c (s.txData n) u).2.venv
      ∧ ∀ a, (s.sendMacraw n).getIp a = (respond c (s.txData n) u).2.getIp a := by
  have hput : (s.put16 (snTxRd n) (s.get16 (snTxWr n))).vnetScript = .responder c :: script := hc
  rw [sendMacraw_of_frame hi hl, vnetFrame_of_responder _ hput]
  refine ⟨_, ?_, rxInjectAll_venv _ n _, fun a => ?_⟩
  · simp
  · simp [State.getIp]

/-- Settles O51: the frame goes to the DHCP responder, by its type to DISCOVER or to REQUEST. -/
theorem dhcpLease : Obligations.DhcpLease := by
  intro n c script d ty s hi h1 h1600 hc he hp hm
  obtain ⟨u, hu, hvenv, hip⟩ := sendMacraw_of_responder hi (by omega) hc
  have hlen := length_of_dhcpMessage hm
  rw [respond_of_udp u (by omega) he hp] at hvenv hip
  refine ⟨s.sendMacraw n, rfl, ?discover, ?request⟩
  case discover =>
    rintro rfl hstate
    rw [hvenv, dhcpRespond_of_discover u hm, dhcpDiscover_venv c _ _ (hu ▸ hstate), hu]
  case request =>
    rintro rfl hstate hxid hmac
    rw [← hu] at hstate hxid hmac ⊢
    rw [dhcpRespond_of_request u hm, hxid, hmac, dhcpRequest_of_match c hstate] at hvenv hip
    obtain ⟨hgar, hsubr, hsipr⟩ := getIp_storeLease { u with venv := { u.venv with dhcpState := .complete } }
      vnGwIp vnMask vnClientIp
    exact ⟨hvenv, (hip _).trans hsipr, (hip _).trans hgar, (hip _).trans hsubr⟩

end Sys2Proof.Machine
end

section
/-! A SYN: the virtual flow opened or refused (44 R331, R336). -/

namespace Sys2Proof.Machine

variable {c : VNetChoices} {f : Frame} {g : Segment} {s : State}

/-- A SYN with no ACK for the gateway subnets runs the SYN rule, its options taken (44 R331; log 11). -/
theorem tcpRespond_of_syn (s : State) (hg : tcpSegmentOf c f = some g)
    (hd : thirdOctet g.dstIp = 64 ∨ thirdOctet g.dstIp = 65) (hsyn : g.has 0x02 = true) (hack : g.has 0x10 = false)
    (ho : c.dropSynOptions = false) : tcpRespond c f s = tcpSyn c g s := by
  rw [tcpRespond, hg]
  dsimp only
  rw [if_neg fun hne => hd.elim hne.1 hne.2, if_pos ⟨hsyn, hack⟩, if_neg (by simp [ho])]

/-- The host refuses the connection: one RST+ACK, and the flow stays dropped (44 R336). -/
theorem tcpSyn_of_refused (h : (s.answerAt 0).asHandle s.dropFlow.liveHandles = none) :
    tcpSyn c g s = ([tcpSegment (c.replies.getD 0 default) (flowOf g none c.rstSeq c.rstAck) 0x14 []],
      (s.dropFlow.ask (.vtcpConnect g.dstPort)).2) := by
  unfold tcpSyn
  simp [h]

/-- The host grants the connection: one SYN+ACK, and the flow is stored with the number after it (44 R331). -/
theorem tcpSyn_of_granted {h : Handle} (e : (s.answerAt 0).asHandle s.dropFlow.liveHandles = some h) :
    tcpSyn c g s = ([tcpSegment (c.replies.getD 0 default) (flowOf g (some h) vnIss (g.seq + 1)) 0x12 []],
      { (s.dropFlow.ask (.vtcpConnect g.dstPort)).2 with
        venv := { s.venv with vtcp := some (flowOf g (some h) (vnIss + 1) (g.seq + 1)) } }) := by
  unfold tcpSyn
  simp [e, Resp.emit, Resp.done, flowOf]

/-- Settles O53: the SYN rule with the two answers of the host. -/
theorem Responders.tcpSyn : Obligations.TcpSyn := by
  intro c f g s hl he hp hg hd hsyn hack ho
  rw [respond_of_tcp s (by omega) he hp, tcpRespond_of_syn s hg hd hsyn hack ho]
  cases e : (s.answerAt 0).asHandle s.dropFlow.liveHandles with
  | none =>
    rw [tcpSyn_of_refused e]
    exact ⟨_, _, rfl, by simp, fun a => by simp, by simp, by simp, fun _ hk => absurd hk (by simp), fun _ =>
      ⟨by simp, flowOf g none c.rstSeq c.rstAck, c.replies.getD 0 default, rfl, rfl, rfl, rfl, rfl, rfl⟩⟩
  | some k =>
    rw [tcpSyn_of_granted e]
    refine ⟨_, _, rfl, by simp, fun a => by simp [State.peek], by simp [State.aside], by simp, fun h hk => ?_,
      fun hk => absurd hk (by simp)⟩
    cases hk
    exact ⟨_, c.replies.getD 0 default, rfl, rfl, rfl, rfl, rfl, rfl, rfl, rfl, rfl, rfl, rfl, rfl, rfl⟩

end Sys2Proof.Machine
end

section
/-! Where an operation is refused, and under which name (60 R360, 93 U4, U11, U12, U14, D38). -/

namespace Sys2Proof.Machine

variable {s : State} {i : Instr} {n : SockId} {x : Refusal}

/-- The operation `i`, run in `s`, is one that the spec refuses under the name `x`: RECV beyond the staged
data or on a tail below its head, Sn_RX_RSR where the polls leave no fill level, a slot call after the start
or for the other card's slot. -/
def Refuses (s : State) (i : Instr) (x : Refusal) : Prop :=
  (∃ n fill, runsRecv s n i ∧ (s.sock n).rsr = some fill ∧ fill < s.recvDelta n ∧ x = .recvBeyondStaged)
    ∨ (∃ n, runsRecv s n i ∧ (s.sock n).tailBelowHead ∧ x = .macrawTailBelowHead)
    ∨ (∃ n, readsRsr s n i ∧ ((s.pagePoll n).sock n).tailBelowHead ∧ x = .macrawTailBelowHead)
    ∨ (∃ k, (i = .u2SetSlot k ∨ i = .mouseSetSlot k) ∧ s.started = true ∧ x = .slotAfterStart)
    ∨ (∃ k, ((i = .u2SetSlot k ∧ s.params.mouseSlot = some k.toNat)
        ∨ (i = .mouseSetSlot k ∧ s.params.u2Slot = some k.toNat)) ∧ s.started = false ∧ x = .slotTaken)

/-! ## The operations that can be refused -/

theorem slotOutcome_eq_refused_iff {e : Except Refusal State} : slotOutcome e = .refused x ↔ e = .error x := by
  cases e <;> simp [slotOutcome]

theorem exec_imgWrSnCr_refused_iff {v : Byte} :
    exec (.imgWrSnCr n v) s = .refused x ↔ v = 0x40 ∧ s.recv n = .error x :=
  outcome_eq_refused_iff.trans (writeCommand_error_iff s n v x)

theorem exec_u2RdData_refused_iff : exec .u2RdData s = .refused x ↔ s.memRead s.addrPtr = .error x := by
  simp only [exec, execU2RdData]
  cases s.memRead s.addrPtr <;> simp

theorem exec_u2WrData_refused_iff {v : Byte} :
    exec (.u2WrData v) s = .refused x ↔ s.memWrite s.addrPtr v = .error x := by
  simp only [exec, execU2WrData]
  cases s.memWrite s.addrPtr v <;> simp

/-- A RECV that is refused is refused as RECV is, whichever operation carries it out (41 R210). -/
theorem exec_refused_of_runsRecv (hi : runsRecv s n i) (h : s.recv n = .error x) : exec i s = .refused x := by
  rcases hi with rfl | rfl | ⟨rfl, ha⟩
  · exact exec_cmdRecv_refused_iff.mpr h
  · exact exec_imgWrSnCr_refused_iff.mpr ⟨rfl, h⟩
  · exact exec_u2WrData_refused_iff.mpr ((memWrite_error_iff s _ _ x).mpr ⟨n, ha, rfl, h⟩)

/-- A read of Sn_RX_RSR is refused where the polls leave no fill level, directly and through the Data port. -/
theorem exec_refused_of_readsRsr (hi : readsRsr s n i) (h : ((s.pagePoll n).sock n).tailBelowHead) :
    exec i s = .refused .macrawTailBelowHead := by
  rcases hi with ⟨low, rfl⟩ | ⟨rfl, ha⟩
  · exact exec_imgRdRxRsr_refused s n low h
  · exact exec_u2RdData_refused_iff.mpr ((memRead_error_iff s _ _).mpr ⟨n, ha, h, rfl⟩)

/-- Where a slot call for a slot in 1..7 is refused (93 U12, D38). -/
theorem setSlot_error_iff {card : Card} {k : Int} (hk : WellFormed.slot k = true) :
    s.setSlot card k = .error x ↔ (s.started = true ∧ x = .slotAfterStart)
      ∨ (otherSlot s.params card = some k.toNat ∧ s.started = false ∧ x = .slotTaken) := by
  obtain ⟨h1, h7⟩ : 1 ≤ k ∧ k ≤ 7 := by simpa [WellFormed.slot] using hk
  cases hs : s.started with
  | true => simp [setSlot_of_started h1 h7 card hs, eq_comm]
  | false =>
    by_cases ho : otherSlot s.params card = some k.toNat
    · simp [setSlot_of_taken h1 h7 hs ho, ho, eq_comm]
    · simp [setSlot_of_free h1 h7 hs ho, ho]

/-! ## Where they are -/

theorem refuses_of_recv_error (hi : runsRecv s n i) (h : s.recv n = .error x) : Refuses s i x := by
  rcases (recv_error_iff s n x).mp h with ⟨hbelow, hx⟩ | ⟨fill, hfill, hlt, hx⟩
  · exact .inr (.inl ⟨n, hi, hbelow, hx⟩)
  · exact .inl ⟨n, fill, hi, hfill, hlt, hx⟩

theorem refuses_of_readsRsr (hi : readsRsr s n i) (h : ((s.pagePoll n).sock n).tailBelowHead)
    (hx : x = .macrawTailBelowHead) : Refuses s i x :=
  .inr (.inr (.inl ⟨n, hi, h, hx⟩))

/-- A well-formed operation that is refused is one that the spec refuses. -/
theorem refuses_of_exec_refused (hw : WellFormed i = true) (h : exec i s = .refused x) : Refuses s i x := by
  cases i with
  | cmdRecv n => exact refuses_of_recv_error (.inl rfl) (exec_cmdRecv_refused_iff.mp h)
  | imgWrSnCr n v =>
    obtain ⟨rfl, hr⟩ := exec_imgWrSnCr_refused_iff.mp h
    exact refuses_of_recv_error (.inr (.inl rfl)) hr
  | u2WrData v =>
    obtain ⟨n, ha, rfl, hr⟩ := (memWrite_error_iff s _ v x).mp (exec_u2WrData_refused_iff.mp h)
    exact refuses_of_recv_error (.inr (.inr ⟨rfl, ha⟩)) hr
  | u2RdData =>
    obtain ⟨n, ha, hbelow, hx⟩ := (memRead_error_iff s _ x).mp (exec_u2RdData_refused_iff.mp h)
    exact refuses_of_readsRsr (.inr ⟨rfl, ha⟩) hbelow hx
  | imgRdRxRsr n low =>
    obtain ⟨-, hbelow, hx⟩ := (readPage_error_iff s n _ x).mp (readOutcome_eq_refused_iff.mp h)
    exact refuses_of_readsRsr (.inl ⟨low, rfl⟩) hbelow hx
  | imgRdTxFsr n low =>
    obtain ⟨ho, -⟩ := (readPage_error_iff s n _ x).mp (readOutcome_eq_refused_iff.mp h)
    cases low <;> simp at ho
  | imgRdSockreg n o =>
    obtain ⟨ho, -⟩ := (readPage_error_iff s n o x).mp (readOutcome_eq_refused_iff.mp h)
    rcases ho with rfl | rfl <;> cases hw
  | u2SetSlot k =>
    rcases (setSlot_error_iff hw).mp (slotOutcome_eq_refused_iff.mp h) with hs | ⟨ho, hs⟩
    · exact .inr (.inr (.inr (.inl ⟨k, .inl rfl, hs⟩)))
    · exact .inr (.inr (.inr (.inr ⟨k, .inl ⟨rfl, ho⟩, hs⟩)))
  | mouseSetSlot k =>
    rcases (setSlot_error_iff hw).mp (slotOutcome_eq_refused_iff.mp h) with hs | ⟨ho, hs⟩
    · exact .inr (.inr (.inr (.inl ⟨k, .inr rfl, hs⟩)))
    · exact .inr (.inr (.inr (.inr ⟨k, .inr ⟨rfl, ho⟩, hs⟩)))
  | _ => cases h

/-- A well-formed operation that the spec refuses is refused. -/
theorem exec_refused_of_refuses (hw : WellFormed i = true) (h : Refuses s i x) : exec i s = .refused x := by
  rcases h with ⟨n, fill, hi, hfill, hlt, hx⟩ | ⟨n, hi, hbelow, hx⟩ | ⟨n, hi, hbelow, rfl⟩ | ⟨k, hi, hs⟩
    | ⟨k, hi, hs⟩
  · exact exec_refused_of_runsRecv hi ((recv_error_iff s n x).mpr (.inr ⟨fill, hfill, hlt, hx⟩))
  · exact exec_refused_of_runsRecv hi ((recv_error_iff s n x).mpr (.inl ⟨hbelow, hx⟩))
  · exact exec_refused_of_readsRsr hi hbelow
  · rcases hi with rfl | rfl <;> exact slotOutcome_eq_refused_iff.mpr ((setSlot_error_iff hw).mpr (.inl hs))
  · rcases hi with ⟨rfl, ho⟩ | ⟨rfl, ho⟩ <;>
      exact slotOutcome_eq_refused_iff.mpr ((setSlot_error_iff hw).mpr (.inr ⟨ho, hs⟩))

/-- Settles O7: a step is refused where its request decodes to nothing, or where the operation it decodes to,
which is well formed, is refused. -/
theorem stepStops : Obligations.StepStops := by
  intro s x
  constructor
  · intro h
    rcases step_cases s with ⟨-, e⟩ | ⟨r, rest, hp, ⟨e, hd, hs⟩ | ⟨i, hd, hs⟩⟩
    · rw [e] at h; cases h
    · rw [hs] at h; cases h; exact ⟨r, rest, hp, .inl ⟨e, hd, rfl⟩⟩
    · rw [hs] at h; exact ⟨r, rest, hp, .inr ⟨i, hd, refuses_of_exec_refused (decode_wellFormed hd) h⟩⟩
  · rintro ⟨r, rest, hp, ⟨e, hd, rfl⟩ | ⟨i, hd, h⟩⟩
    · exact step_of_decode_error hp hd
    · rw [step_of_decode_ok hp hd]
      exact exec_refused_of_refuses (decode_wellFormed hd) h

end Sys2Proof.Machine
end

section
/-! An operation on one socket's page, and the other sockets (60 R368). -/

namespace Sys2Proof.Machine

variable {s t : State} {i : Instr} {n m : SockId}

/-! ## What it can do -/

/-- From `s` to `t`, everything that an operation on socket `n`'s page can do to the sockets and the image:
what a command or a poll of that socket can do, and then a store to its command register (40 R172, R183). -/
def PageStep (n : SockId) (s t : State) : Prop :=
  ∃ u, Keeps n s u ∧ t.socks = u.socks ∧ u.keepsOutside t (· = snCr n)

theorem Keeps.pageStep (k : Keeps n s t) : PageStep n s t := ⟨t, k, rfl, fun _ _ => rfl⟩

/-- A read of the page, which delivers a byte after the polls, where only socket 0 is in MACRAW mode. -/
theorem pageStep_of_readPage {o : Byte} (hm : (s.sock n).macraw = true → n = 0)
    (h : readOutcome (s.readPage n o) = .next t) : PageStep n s t := by
  obtain ⟨b, rfl⟩ := readOutcome_readPage h
  exact ⟨_, keeps_pagePoll s n hm, rfl, fun _ _ => rfl⟩

/-- A write of the command register: the command, then 0 stored. -/
theorem pageStep_of_writeCommand {v : Byte} (h : s.writeCommand n v = .ok t) : PageStep n s t := by
  obtain ⟨u, hu, rfl⟩ := writeCommand_eq_ok_iff.mp h
  exact ⟨u, dispatchCommand_keeps s n v u hu, poke_socks u _ 0, keepsOutside_poke u _ 0⟩

/-- Every operation on socket `n`'s page stays inside the relation. -/
theorem pageStep_of_actsOn (hm : (s.sock n).macraw = true → n = 0) (ha : actsOn n i) (h : exec i s = .next t) :
    PageStep n s t := by
  cases i with
  | imgRdTxFsr | imgRdRxRsr | imgRdSockreg => cases ha; exact pageStep_of_readPage hm h
  | imgWrSnCr => cases ha; exact pageStep_of_writeCommand (outcome_eq_next_iff.mp h)
  | cmdOpenTcp | cmdOpenUdp => cases ha; cases h; exact (keeps_openHost s n _ _).pageStep
  | cmdOpenMacraw => cases ha; cases h; exact (keeps_openMacraw s).pageStep
  | cmdOpenOther | cmdUnlisted => cases ha; cases h; exact (Keeps.refl n s).pageStep
  | cmdListen => cases ha; cases h; exact (keeps_listen s n).pageStep
  | cmdConnect => cases ha; cases h; exact (keeps_connect s n).pageStep
  | cmdDiscon | cmdClose => cases ha; cases h; exact (keeps_closeSocket s n).pageStep
  | cmdSendMacraw => cases ha; cases h; exact (keeps_sendMacraw s n).pageStep
  | cmdSendTcp => cases ha; cases h; exact (keeps_sendTcp s n).pageStep
  | cmdRecv => cases ha; exact (recv_spec s n t (outcome_eq_next_iff.mp h)).pageStep
  | pollSocket => cases ha; cases h; exact (keeps_socketPoll s n).pageStep
  | pollVtcp => cases ha; cases h; exact (keeps_virtualTcpPoll s).pageStep
  | _ => cases ha

/-! ## What it leaves of the others -/

theorem PageStep.keepsOthers (k : PageStep n s t) : s.keepsOthers t n := by
  obtain ⟨u, hu, hsocks, -⟩ := k
  intro m hm
  rw [State.sock, hsocks]
  exact hu.others m hm

theorem PageStep.peek {a : Nat} (k : PageStep n s t) (ht : ¬ touched n a) (hc : a ≠ snCr n) :
    t.peek a = s.peek a := by
  obtain ⟨u, hu, -, himage⟩ := k
  exact (himage a hc).trans (hu.image a ht)

/-- No byte of another socket's page is one that the socket's commands and polls write. -/
theorem not_touched_page (h : m ≠ n) (o : Byte) :
    ¬ touched n (sockBase m + o.toNat) ∧ sockBase m + o.toNat ≠ snCr n := by
  have hv : m.val ≠ n.val := fun e => h (Fin.ext e)
  unfold touched leaseByte snCr snSr snTxRd snRxRd sockBase
  omega

/-- No byte of a TX ring is one that a socket's commands and polls write. -/
theorem not_touched_txRing (m n : SockId) (j : BitVec 11) :
    ¬ touched n (txBase m + j.toNat) ∧ txBase m + j.toNat ≠ snCr n := by
  unfold touched leaseByte snCr snSr snTxRd snRxRd sockBase txBase
  omega

/-- Settles O59: an operation on a socket's page reaches its own socket, its own page and the lease, which are
apart from the pages of the others and from every TX ring. -/
theorem socketsApart : Obligations.SocketsApart := by
  intro i n s t hs ha h
  have k := pageStep_of_actsOn (hs.socketsSane n).1 ha h
  refine ⟨k.keepsOthers, fun m hm o => ⟨?_, fun j => ?_⟩⟩
  · obtain ⟨ht, hc⟩ := not_touched_page hm o
    exact k.peek ht hc
  · obtain ⟨ht, hc⟩ := not_touched_txRing m n j
    exact k.peek ht hc

end Sys2Proof.Machine
end

section
/-! The reset is complete (70 R391): what every socket's registers read after a reset and at power-on. -/

namespace Sys2Proof.Machine

/-- Socket `n`'s registers are as after a reset: status CLOSED, every pointer at its bank base (70 R391). -/
def State.registersReset (s : State) (n : SockId) : Prop :=
  s.status n = 0x00 ∧ s.get16 (snTxRd n) = BitVec.ofNat 16 (txBase n)
    ∧ s.get16 (snTxWr n) = BitVec.ofNat 16 (txBase n) ∧ s.get16 (snRxRd n) = BitVec.ofNat 16 (rxBase n)

theorem reset_registersReset (n : SockId) : State.reset.registersReset n :=
  ⟨by revert n; decide, reset_pointers n⟩

variable {s t : State}

/-- The socket's registers depend on the image alone, and not on the mode byte. -/
theorem State.registersReset.congr {n : SockId} (h : s.registersReset n) (hi : s.keepsOutside t (· = 0)) :
    t.registersReset n := by
  have hword : ∀ a, a ≠ 0 → t.get16 a = s.get16 a := fun a ha => by
    rw [State.get16, State.get16, hi a ha, hi (a + 1) a.succ_ne_zero]
  have hstatus : t.status n = s.status n := hi (snSr n) (by unfold snSr; omega)
  unfold State.registersReset
  rw [hstatus, hword (snTxRd n) (by unfold snTxRd; omega), hword (snTxWr n) (by unfold snTxWr; omega),
    hword (snRxRd n) (by unfold snRxRd; omega)]
  exact h

/-- What the mode register stores of a byte has bit 7 clear (D10). -/
theorem getLsbD_masked_mode (v : Byte) : (v &&& 0x7F).getLsbD 7 = false := by
  rw [BitVec.getLsbD_and]
  exact Bool.and_false _

/-- Settles O12: a mode write that resets leaves the power-on image but for the mode byte, which it stores
with bit 7 clear. -/
theorem resetComplete : Obligations.ResetComplete := by
  intro v s hv
  obtain ⟨-, hreset⟩ := modeWrites v s
  obtain ⟨t, hbus, himg, hmode, himage, -⟩ := hreset hv
  have hbit : (t.peek 0).getLsbD 7 = false := by rw [hmode, getLsbD_masked_mode]
  refine ⟨t, hbus, himg, ⟨t.peek 0, exec_imgRdPlain t 0, hbit⟩, ?_⟩
  rintro u (rfl | rfl)
  · exact ⟨hbit, fun n => (reset_registersReset n).congr himage⟩
  · exact ⟨by decide, reset_registersReset⟩

end Sys2Proof.Machine
end

section
/-! The two cards apart (70 R392, 20 R80): what an operation of each card leaves of the other. -/

namespace Sys2Proof.Machine

/-! ## The mouse card under the operations of the other card -/

/-- What stands in the mouse card: the PIA, the motion state and the ROM (10 R68 to R71). -/
def State.mouseCard (s : State) : Pia × Mouse × Memory := (s.pia, s.mouse, s.mouseRom)

variable {s t : State}

theorem mouseCard_eq_iff :
    t.mouseCard = s.mouseCard ↔ t.pia = s.pia ∧ t.mouse = s.mouse ∧ t.mouseRom = s.mouseRom := by
  simp [State.mouseCard]

/-- The mouse card is a part of what the commands and the polls leave aside (42 R266). -/
theorem aside_mouseCard (h : t.aside = s.aside) : t.mouseCard = s.mouseCard :=
  congrArg (fun a : Aside => (a.pia, a.mouse, a.mouseRom)) h

theorem Keeps.mouseCard {n : SockId} (k : Keeps n s t) : t.mouseCard = s.mouseCard := aside_mouseCard k.aside

@[simp] theorem postIncrement_mouseCard (s : State) : s.postIncrement.mouseCard = s.mouseCard := by
  simp [State.mouseCard]

/-- A mode write leaves the mouse card, also where it resets (70 R392). -/
theorem writeMode_mouseCard (s : State) (v : Byte) : (s.writeMode v).mouseCard = s.mouseCard := by
  rcases writeMode_cases s v with ⟨-, e⟩ | ⟨-, e⟩
  all_goals simp [e, State.mouseCard]

theorem memWrite_mouseCard {a : Word16} {v : Byte} (e : s.memWrite a v = .ok t) :
    t.mouseCard = s.mouseCard := by
  rcases memWrite_cases s a v t e with ⟨-, e⟩ | ⟨-, e⟩ | ⟨n, u, -, hu, e⟩ | ⟨-, -, -, e⟩
  · rw [e]
  · rw [e, writeMode_mouseCard]
  · rw [e]; exact (dispatchCommand_keeps s n v u hu).mouseCard
  · rw [e]; rfl

/-- No operation of the Uthernet II card reaches the mouse card: it changes the pointer or the delivered
byte, or it is a mode write, an image access, a command or a poll. -/
theorem exec_mouseCard_of_isU2 {i : Instr} (hi : isU2 i = true) (h : exec i s = .next t) :
    t.mouseCard = s.mouseCard := by
  cases i with
  | u2WrRom | u2WrUnassignedLow | u2WrUnassignedHigh | imgWrInvalid | cmdOpenOther | cmdUnlisted
  | u2RdRom | u2RdMode | u2RdArh | u2RdArl | u2RdUnassignedLow | u2RdUnassignedHigh | imgRdInvalid
  | imgRdRxwin | imgRdPlain | u2WrArh | u2WrArl | imgWrPlain => cases h; rfl
  | u2WrMode v | imgWrMode v => cases h; exact writeMode_mouseCard s v
  | u2RdData =>
    simp only [exec, execU2RdData] at h
    split at h <;> cases h
    next e => exact (postIncrement_mouseCard _).trans (aside_mouseCard (memRead_aside e))
  | u2WrData =>
    simp only [exec, execU2WrData] at h
    split at h <;> cases h
    next e => exact (postIncrement_mouseCard _).trans (memWrite_mouseCard e)
  | imgRdTxFsr n | imgRdRxRsr n | imgRdSockreg n =>
    obtain ⟨b, rfl⟩ := readOutcome_readPage h
    exact aside_mouseCard (t := s.pagePoll n) (pagePoll_aside s n)
  | imgWrSnCr n v =>
    obtain ⟨u, hu, rfl⟩ := writeCommand_eq_ok_iff.mp (outcome_eq_next_iff.mp h)
    exact (dispatchCommand_keeps s n v u hu).mouseCard
  | cmdOpenTcp n | cmdOpenUdp n => cases h; exact (keeps_openHost s n _ _).mouseCard
  | cmdOpenMacraw => cases h; exact (keeps_openMacraw s).mouseCard
  | cmdListen n => cases h; exact (keeps_listen s n).mouseCard
  | cmdConnect n => cases h; exact (keeps_connect s n).mouseCard
  | cmdDiscon n | cmdClose n => cases h; exact (keeps_closeSocket s n).mouseCard
  | cmdSendMacraw n => cases h; exact (keeps_sendMacraw s n).mouseCard
  | cmdSendTcp n => cases h; exact (keeps_sendTcp s n).mouseCard
  | cmdRecv n => exact (recv_spec s n t (outcome_eq_next_iff.mp h)).mouseCard
  | pollSocket n => cases h; exact (keeps_socketPoll s n).mouseCard
  | pollVtcp => cases h; exact (keeps_virtualTcpPoll s).mouseCard
  | _ => cases hi

/-! ## The other card under the bus accesses of the mouse card -/

/-- A bus access to the mouse card changes the PIA, the motion state and the delivered byte alone: every
arm is one update of those fields. -/
theorem exec_restore_of_isPia {i : Instr} (hi : isPia i = true) (h : exec i s = .next t) :
    { t with pia := s.pia, mouse := s.mouse, delivered := s.delivered } = s := by
  cases i with
  | piaRdRom | piaWrRom | piaRdOra | piaWrOra | piaRdDdra | piaWrDdra | piaRdCra | piaWrCra | piaRdOrb
  | piaWrOrb | piaRdDdrb | piaWrDdrb | piaRdCrb | piaWrCrb | piaRdUnassignedLow | piaRdUnassignedHigh
  | piaWrUnassignedLow | piaWrUnassignedHigh => cases h; rfl
  | _ => cases hi

/-- Settles O58: the mouse card under the operations of the other, and the other under its bus accesses. -/
theorem cardsApart : Obligations.CardsApart := fun _ _ _ h =>
  ⟨fun hi => mouseCard_eq_iff.mp (exec_mouseCard_of_isU2 hi h), fun hi => exec_restore_of_isPia hi h⟩

end Sys2Proof.Machine
end

section
/-! The pointer's halves, the mode switch and the unassigned soft switches (40 R163 to R167, R178; D3, D4). -/

namespace Sys2Proof.Machine

variable (s : State)

/-- A write of the pointer's high half packs the byte with the low half (40 R163). -/
@[simp] theorem exec_u2WrArh (v : Byte) :
    exec (.u2WrArh v) s = .next { s with addrPtr := word16 v (loByte s.addrPtr) } := rfl

/-- A write of the pointer's low half packs the high half with the byte (40 R164). -/
@[simp] theorem exec_u2WrArl (v : Byte) :
    exec (.u2WrArl v) s = .next { s with addrPtr := word16 (hiByte s.addrPtr) v } := rfl

@[simp] theorem exec_u2RdArh : exec .u2RdArh s = .next (s.deliver (hiByte s.addrPtr)) := rfl

@[simp] theorem exec_u2RdArl : exec .u2RdArl s = .next (s.deliver (loByte s.addrPtr)) := rfl

@[simp] theorem exec_u2RdMode : exec .u2RdMode s = .next (s.deliver (s.peek 0)) := rfl

@[simp] theorem exec_u2RdUnassignedLow (p : BitVec 2) : exec (.u2RdUnassignedLow p) s = .next (s.deliver 0) := rfl

@[simp] theorem exec_u2RdUnassignedHigh (p : BitVec 3) : exec (.u2RdUnassignedHigh p) s = .next (s.deliver 0) := rfl

/-- Settles O9, arm by arm: a write packs the pointer's two halves anew, and a read is a delivery alone, of
a half of the pointer, of the mode byte, or of 0. -/
theorem switchesRead : Obligations.SwitchesRead := fun v s =>
  ⟨exec_u2WrArh s v, exec_u2WrArl s v, exec_u2RdArh s, exec_u2RdArl s, exec_u2RdMode s,
    exec_u2RdUnassignedLow s, exec_u2RdUnassignedHigh s⟩

end Sys2Proof.Machine
end
